-- ==== Sys2Proof/Word.lean ====
section
/-! DEFINITION. The two word types of the SPE: bytes on the wire, 32-bit words on the host bus (R7, R34). -/

namespace Sys2Proof

/-- A byte of a frame, a tag, a frame type or a remote register address (R7). -/
abbrev Byte := BitVec 8

/-- A host CSR word or a remote register value (R7, R18). -/
abbrev Word := BitVec 32

end Sys2Proof
end

