-- ==== Sys2Proof/Machine/Bytes.lean ====
section
/-! DEFINITION. Assembly and splitting of the wire's little-endian fields (R11, R38, R64). -/

namespace Sys2Proof.Machine

/-- `le16(v)` (R11). -/
def le16 (v : BitVec 16) : List Byte := [v.extractLsb' 0 8, v.extractLsb' 8 8]

/-- `le32(v)` (R11). -/
def le32 (v : Word) : List Byte :=
  [v.extractLsb' 0 8, v.extractLsb' 8 8, v.extractLsb' 16 8, v.extractLsb' 24 8]

/-- `u16le(a, b)` (R11). -/
def u16le (a b : Byte) : BitVec 16 := a.setWidth 16 ||| (b.setWidth 16 <<< 8)

/-- `u32le(a, b, c, d)` (R11). -/
def u32le (a b c d : Byte) : Word :=
  a.setWidth 32 ||| (b.setWidth 32 <<< 8) ||| (c.setWidth 32 <<< 16) ||| (d.setWidth 32 <<< 24)

/-- +1 that stops at 0xFFFFFFFF: DISCARD_CNT, POLL_CNT and ELAPSED (R24, R81). -/
def satInc (w : Word) : Word := if w = 0xFFFFFFFF then w else w + 1

/-- A word with bit `n` equal to `b` and every other bit 0. -/
def bitAt (b : Bool) (n : Nat) : Word := if b then 1 <<< n else 0

end Sys2Proof.Machine
end

