-- ==== Sys2Proof/Machine/Params.lean ====
section
/-! DEFINITION. The parameters to which R6 gives one value, the frame types of R58 and the command bytes of R62. -/

namespace Sys2Proof.Machine

/-- POLL_INTERVAL, in ticks (R6). -/
abbrev pollInterval : BitVec 8 := 100

/-- WAIT_START_TIME, in ticks (R6). -/
abbrev waitStartTime : Word := 3000

/-- REQ_TAG (R6). -/
abbrev reqTag : Byte := 0xCC

/-- TERM (R6). -/
abbrev termByte : Byte := 0xCD

/-- ERROR_MASK (R6, R105). -/
abbrev errorMask : Word := 0xFFFF0000

/-- STATUS_ADDR (R6). -/
abbrev statusAddr : Byte := 0x06

/-- BUF_SUBID (R6). -/
abbrev bufSubId : Byte := 0xE8

/-- The wanted bits of WAIT_START: activated and created (R67, R109). -/
abbrev startBits : Word := 0x3

/-- The wanted bit of WAIT_DATA: data-ready (R67, R110). -/
abbrev dataReadyBit : Word := 0x100

/-- Frame type write-request (R58). -/
abbrev tyWriteReq : Byte := 0xF9
/-- Frame type read-request (R58). -/
abbrev tyReadReq : Byte := 0xF8
/-- Frame type buffer-read request (R58). -/
abbrev tyBufReq : Byte := 0xFA
/-- Frame type write-ack (R58). -/
abbrev tyWriteAck : Byte := 0xF5
/-- Frame type read-reply (R58). -/
abbrev tyReadReply : Byte := 0xF6
/-- Frame type buffer-reply (R58). -/
abbrev tyBufReply : Byte := 0xF7
/-- Frame type stream-push (R58). -/
abbrev tyStreamPush : Byte := 0xFE

/-- Command byte of a write request (R62). -/
abbrev cbWrite : Byte := 0x05
/-- Command byte of a read request (R62). -/
abbrev cbRead : Byte := 0x01
/-- Command byte of a buffer-read request (R62). -/
abbrev cbBuf : Byte := 0x03

end Sys2Proof.Machine
end

