-- ==== Sys2Proof/Machine/Framer.lean ====
section
/-! DEFINITION. The packet framer and parser: three pure functions of byte sequences (R68 to R73). -/

namespace Sys2Proof.Machine

/-- The frame of R69's pseudocode, with a command byte (`cb`, R60) or without one (R61). The 16-bit length field
is exact for bodies of at most 65534 bytes; the engine builds none longer than 5. -/
def requestBytes (cb : Bool) (type cmd : Byte) (body : List Byte) : List Byte :=
  if cb then
    [reqTag] ++ le16 (BitVec.ofNat 16 (1 + body.length)) ++ [type, cmd] ++ body ++ [termByte]
  else
    [reqTag] ++ le16 (BitVec.ofNat 16 body.length) ++ [type] ++ body ++ [termByte]

/-- `encode_request` (R69): a body over 65534 bytes has no encoding (I21). -/
def encodeRequest (cb : Bool) (type cmd : Byte) (body : List Byte) : Option (List Byte) :=
  if body.length ≤ 65534 then some (requestBytes cb type cmd body) else none

/-- `decode_header` (R70), on exactly 4 bytes: tag, length, type. Every 4-byte value is a header. -/
def decodeHeader : List Byte → Option (Byte × BitVec 16 × Byte)
  | [tag, l0, l1, type] => some (tag, u16le l0 l1, type)
  | _ => none

/-- `decode_body` (R71), on the bytes of a `LinkRead(length + 1)`: the payload, or `none` for FramingError. Only
the last byte is checked. -/
def decodeBody (length : BitVec 16) (b : List Byte) : Option (List Byte) :=
  if b[length.toNat]? = some termByte then some (b.take length.toNat) else none

end Sys2Proof.Machine
end

