-- ==== Sys2Proof/Syntax.lean ====
section
/-! DEFINITION. The instructions of the SPE: one constructor per row of spec/opcode_table.json, the CSR names
(R18), the lines of a host program (R66, R67) and the three kinds of code an instruction is read from. -/

namespace Sys2Proof

/-- `NAME` of a host program line: a CSR of R18. -/
inductive Csr where
  | ctrl | cmd | status | err | addr | wdata | offset | wanted | maxTime | discardCap
  | result | plen | discardCnt | pollCnt | elapsed | lastHdr
  | payload (k : BitVec 14)
  deriving DecidableEq, Repr

/-- The rows of the opcode table.

`host_cmd` (R54, R55): a word written to CMD; `ign` is bits 31:4, which the SPE does not read, and `lo` the
opcode bits that the row's mask leaves open.
`wire_request`, `wire_request_alt` (R60 to R62): a request frame with its operand bytes.
`wire_response` (R56, R63): a received frame of the row's type with its tag, its payload and its last byte.
`pseudo` (R67): a host line with the words it writes. -/
inductive Instr where
  | writeReg   (ign : BitVec 28)
  | readReg    (ign : BitVec 28)
  | readBuf    (ign : BitVec 28)
  | readStream (ign : BitVec 28)
  | pollStatus (ign : BitVec 28)
  | illegal0   (ign : BitVec 28)
  | illegal67  (lo : BitVec 1) (ign : BitVec 28)
  | illegal8F  (lo : BitVec 3) (ign : BitVec 28)
  | reqWrite    (a : Byte) (v : Word)
  | reqRead     (a : Byte)
  | reqBuf      (o : BitVec 16)
  | reqWriteAlt (a : Byte) (v : Word)
  | reqReadAlt  (a : Byte)
  | reqBufAlt   (o : BitVec 16)
  | rspWriteAck   (tag : Byte) (p : List Byte) (term : Byte)
  | rspReadReply  (tag : Byte) (p : List Byte) (term : Byte)
  | rspBufReply   (tag : Byte) (p : List Byte) (term : Byte)
  | rspStreamPush (tag : Byte) (p : List Byte) (term : Byte)
  | doWriteReg (a v : Word)
  | doReadReg  (a : Word)
  | doReadBuf  (o : Word)
  | doPoll     (w t : Word)
  | waitStart
  | waitData   (t : Word)
  | waitDone
  deriving DecidableEq, Repr

/-- One line of a host program (R66), and the two loops that R67 writes in words.

`waitNotBusy` is "repeat `csrr STATUS` until bit 0 (`BUSY`) reads 0"; `waitIrq` is the wait for `irq` that R67
allows in its place; `readPayload` is "`csrr PLEN`; `csrr PAYLOAD[k]` for k = 0 to ceil(PLEN/4) - 1";
`run i` is the line that names a command (`cmd MNEMONIC`) or a pseudo-instruction. -/
inductive HostLine where
  | csrw (c : Csr) (v : Word)
  | csrr (c : Csr)
  | waitNotBusy
  | waitIrq
  | readPayload
  | run (i : Instr)
  deriving DecidableEq, Repr

/-- What an instruction is read from: the word written to CMD, the bytes of a frame the SPE sends, the bytes of
a frame it receives, or the lines of a host program. -/
inductive Code where
  | cmdWord (w : Word)
  | txFrame (bs : List Byte)
  | rxFrame (bs : List Byte)
  | lines (ls : List HostLine)
  deriving DecidableEq, Repr

end Sys2Proof
end

