-- ==== Sys2Proof/WellFormed.lean ====
section
/-! DEFINITION. Which instructions have an encoding. Every operand but a payload has its width in its type; a
payload's length must fit the 16-bit `length` field (R56, R57). -/

namespace Sys2Proof

/-- A payload that a 16-bit `length` can carry: 0 to 65535 bytes (R56). -/
def payloadFits (p : List Byte) : Bool := decide (p.length ≤ 65535)

/-- An instruction that its format can encode. -/
def Instr.wf : Instr → Bool
  | .rspWriteAck _ p _ | .rspReadReply _ p _ | .rspBufReply _ p _ | .rspStreamPush _ p _ => payloadFits p
  | .writeReg _ | .readReg _ | .readBuf _ | .readStream _ | .pollStatus _ => true
  | .illegal0 _ | .illegal67 _ _ | .illegal8F _ _ => true
  | .reqWrite _ _ | .reqRead _ | .reqBuf _ | .reqWriteAlt _ _ | .reqReadAlt _ | .reqBufAlt _ => true
  | .doWriteReg _ _ | .doReadReg _ | .doReadBuf _ | .doPoll _ _ => true
  | .waitStart | .waitData _ | .waitDone => true

end Sys2Proof
end

