-- ==== Sys2Proof/Decode.lean ====
section
/-! DEFINITION. Decoding of command words (R54, R55), request frames (R60 to R62), response frames (R56, R63) and
macro lines (R67), each total and rejecting by name, and after it the encoder, written from the same tables. -/

namespace Sys2Proof

open Sys2Proof.Machine

/-- Why a code is no instruction. -/
inductive Reject where
  /-- A request frame's leading bytes are those of no row of R62. -/
  | wrongLead
  /-- A request frame does not end in 0xCD. -/
  | wrongTerminator
  /-- A request frame of a size that no row has, or a response frame whose size is not `4 + length + 1` (R57). -/
  | wrongSize
  /-- A response frame whose type is none of the four reply types: it is received as a foreign frame (R58). -/
  | unknownType
  /-- Host lines that are the expansion of no macro. -/
  | wrongExpansion
  deriving DecidableEq, Repr

/-! ### Command words -/

/-- The instruction of a word written to CMD. Every word has one: bits 31:4 are ignored, and the reserved codes
are instructions that end with ILLEGAL_CMD (R54, R55, R112). -/
def decodeCmd (w : Word) : Instr :=
  let ign := w.extractLsb' 4 28
  match (w.extractLsb' 0 4).toNat with
  | 0 => .illegal0 ign
  | 1 => .writeReg ign
  | 2 => .readReg ign
  | 3 => .readBuf ign
  | 4 => .readStream ign
  | 5 => .pollStatus ign
  | 6 => .illegal67 (w.extractLsb' 0 1) ign
  | 7 => .illegal67 (w.extractLsb' 0 1) ign
  | _ => .illegal8F (w.extractLsb' 0 3) ign

/-! ### Request frames -/

/-- Accept `i` if the leading bytes are the row's and the last byte is the terminator. -/
def checkRequest (lead want : List Byte) (term : Byte) (i : Instr) : Except Reject Instr :=
  if lead ≠ want then .error .wrongLead
  else if term ≠ termByte then .error .wrongTerminator
  else .ok i

/-- The instruction of a request frame. The six rows of R62 have six sizes. -/
def decodeTx : List Byte → Except Reject Instr
  | [b0, b1, b2, b3, b4, a, v0, v1, v2, v3, t] =>
    checkRequest [b0, b1, b2, b3, b4] [0xCC, 0x06, 0x00, 0xF9, 0x05] t (.reqWrite a (u32le v0 v1 v2 v3))
  | [b0, b1, b2, b3, b4, a, t] =>
    checkRequest [b0, b1, b2, b3, b4] [0xCC, 0x02, 0x00, 0xF8, 0x01] t (.reqRead a)
  | [b0, b1, b2, b3, b4, b5, o0, o1, t] =>
    checkRequest [b0, b1, b2, b3, b4, b5] [0xCC, 0x04, 0x00, 0xFA, 0x03, 0xE8] t (.reqBuf (u16le o0 o1))
  | [b0, b1, b2, b3, a, v0, v1, v2, v3, t] =>
    checkRequest [b0, b1, b2, b3] [0xCC, 0x05, 0x00, 0xF9] t (.reqWriteAlt a (u32le v0 v1 v2 v3))
  | [b0, b1, b2, b3, a, t] =>
    checkRequest [b0, b1, b2, b3] [0xCC, 0x01, 0x00, 0xF8] t (.reqReadAlt a)
  | [b0, b1, b2, b3, b4, o0, o1, t] =>
    checkRequest [b0, b1, b2, b3, b4] [0xCC, 0x03, 0x00, 0xFA, 0xE8] t (.reqBufAlt (u16le o0 o1))
  | _ => .error .wrongSize

/-! ### Response frames -/

/-- The instruction of a received frame: its type selects the row, its tag is not checked (R58, R59), and its
last byte is an operand, since a frame with a wrong terminator is received too (R71, R80). -/
def decodeRx : List Byte → Except Reject Instr
  | tag :: l0 :: l1 :: type :: rest =>
    let len := (u16le l0 l1).toNat
    match rest.drop len with
    | [term] =>
      let p := rest.take len
      if type = tyWriteAck then .ok (.rspWriteAck tag p term)
      else if type = tyReadReply then .ok (.rspReadReply tag p term)
      else if type = tyBufReply then .ok (.rspBufReply tag p term)
      else if type = tyStreamPush then .ok (.rspStreamPush tag p term)
      else .error .unknownType
    | _ => .error .wrongSize
  | _ => .error .wrongSize

/-! ### Macros -/

/-- The OPCODE of each command, as the word `cmd MNEMONIC` writes (R55, R66). -/
abbrev opWriteReg : Word := 0x1
/-- OPCODE of READ_REG (R55). -/
abbrev opReadReg : Word := 0x2
/-- OPCODE of READ_BUF (R55). -/
abbrev opReadBuf : Word := 0x3
/-- OPCODE of READ_STREAM (R55). -/
abbrev opReadStream : Word := 0x4
/-- OPCODE of POLL_STATUS (R55). -/
abbrev opPollStatus : Word := 0x5

/-- Expansion of `WAIT_DONE` (R67). -/
def waitDoneLines : List HostLine := [.waitNotBusy, .csrr .err, .csrw .status 0x2]

/-- Expansion of `WRITE_REG a, v` (R67). -/
def writeRegLines (a v : Word) : List HostLine :=
  [.csrw .addr a, .csrw .wdata v, .csrw .cmd opWriteReg] ++ waitDoneLines

/-- Expansion of `READ_REG a` (R67). -/
def readRegLines (a : Word) : List HostLine :=
  [.csrw .addr a, .csrw .cmd opReadReg] ++ waitDoneLines ++ [.csrr .result]

/-- Expansion of `READ_BUF o` (R67). -/
def readBufLines (o : Word) : List HostLine :=
  [.csrw .offset o, .csrw .cmd opReadBuf] ++ waitDoneLines ++ [.readPayload]

/-- Expansion of `POLL w, t` (R67). -/
def pollLines (w t : Word) : List HostLine :=
  [.csrw .wanted w, .csrw .maxTime t, .csrw .cmd opPollStatus] ++ waitDoneLines

/-- Accept `i` if the lines are its whole expansion. -/
def checkLines (ls want : List HostLine) (i : Instr) : Except Reject Instr :=
  if ls = want then .ok i else .error .wrongExpansion

/-- The macro of a list of lines. `WAIT_START` and `WAIT_DATA t` have the lines of a `POLL` (R67), so their
lines decode to that `POLL`. -/
def decodeLines (ls : List HostLine) : Except Reject Instr :=
  match ls with
  | .csrw .addr a :: .csrw .wdata v :: _ => checkLines ls (writeRegLines a v) (.doWriteReg a v)
  | .csrw .addr a :: _ => checkLines ls (readRegLines a) (.doReadReg a)
  | .csrw .offset o :: _ => checkLines ls (readBufLines o) (.doReadBuf o)
  | .csrw .wanted w :: .csrw .maxTime t :: _ => checkLines ls (pollLines w t) (.doPoll w t)
  | .waitNotBusy :: _ => checkLines ls waitDoneLines .waitDone
  | _ => .error .wrongExpansion

/-- The instruction of a code, or the name of what is wrong with it. -/
def decode : Code → Except Reject Instr
  | .cmdWord w => .ok (decodeCmd w)
  | .txFrame bs => decodeTx bs
  | .rxFrame bs => decodeRx bs
  | .lines ls => decodeLines ls

/-! ### The encoder -/

/-- Bytes of a received frame: header, payload, last byte (R56). -/
def responseBytes (tag type : Byte) (p : List Byte) (term : Byte) : List Byte :=
  [tag] ++ le16 (BitVec.ofNat 16 p.length) ++ [type] ++ p ++ [term]

/-- The code of a well-formed instruction, row by row from R54, R55, R62, R63 and R67. -/
def encode : Instr → Code
  | .illegal0 ign      => .cmdWord (ign ++ 0x0#4)
  | .writeReg ign      => .cmdWord (ign ++ 0x1#4)
  | .readReg ign       => .cmdWord (ign ++ 0x2#4)
  | .readBuf ign       => .cmdWord (ign ++ 0x3#4)
  | .readStream ign    => .cmdWord (ign ++ 0x4#4)
  | .pollStatus ign    => .cmdWord (ign ++ 0x5#4)
  | .illegal67 lo ign  => .cmdWord (ign ++ 0b011#3 ++ lo)
  | .illegal8F lo ign  => .cmdWord (ign ++ 0b1#1 ++ lo)
  | .reqWrite a v      => .txFrame ([0xCC, 0x06, 0x00, 0xF9, 0x05, a] ++ le32 v ++ [0xCD])
  | .reqRead a         => .txFrame [0xCC, 0x02, 0x00, 0xF8, 0x01, a, 0xCD]
  | .reqBuf o          => .txFrame ([0xCC, 0x04, 0x00, 0xFA, 0x03, 0xE8] ++ le16 o ++ [0xCD])
  | .reqWriteAlt a v   => .txFrame ([0xCC, 0x05, 0x00, 0xF9, a] ++ le32 v ++ [0xCD])
  | .reqReadAlt a      => .txFrame [0xCC, 0x01, 0x00, 0xF8, a, 0xCD]
  | .reqBufAlt o       => .txFrame ([0xCC, 0x03, 0x00, 0xFA, 0xE8] ++ le16 o ++ [0xCD])
  | .rspWriteAck tag p term   => .rxFrame (responseBytes tag 0xF5 p term)
  | .rspReadReply tag p term  => .rxFrame (responseBytes tag 0xF6 p term)
  | .rspBufReply tag p term   => .rxFrame (responseBytes tag 0xF7 p term)
  | .rspStreamPush tag p term => .rxFrame (responseBytes tag 0xFE p term)
  | .doWriteReg a v    => .lines (writeRegLines a v)
  | .doReadReg a       => .lines (readRegLines a)
  | .doReadBuf o       => .lines (readBufLines o)
  | .doPoll w t        => .lines (pollLines w t)
  | .waitStart         => .lines (pollLines startBits waitStartTime)
  | .waitData t        => .lines (pollLines dataReadyBit t)
  | .waitDone          => .lines waitDoneLines

/-! ### The table's numbers -/

/-- The `k` low bytes of `w`, the most significant first: the order in which the table's match and mask of a
wire row number the frame's bytes ("byte 0 in the most significant position"). -/
def bigEndianBytes : Nat → Nat → List Byte
  | 0, _ => []
  | k + 1, w => BitVec.ofNat 8 (w / 256 ^ k) :: bigEndianBytes k w

/-- Leading bytes and number of operand bytes of the six request rows (R62). -/
def requestRows : List (List Byte × Nat) :=
  [([0xCC, 0x06, 0x00, 0xF9, 0x05], 5), ([0xCC, 0x02, 0x00, 0xF8, 0x01], 1),
   ([0xCC, 0x04, 0x00, 0xFA, 0x03, 0xE8], 2), ([0xCC, 0x05, 0x00, 0xF9], 5),
   ([0xCC, 0x01, 0x00, 0xF8], 1), ([0xCC, 0x03, 0x00, 0xFA, 0xE8], 2)]

/-- The code that a table word stands for: a request row's leading bytes, completed with operand bytes of zero
and the row's fixed terminator; a response row's type byte, as an otherwise zero frame with its one body byte;
or else a command word. (DESIGN CHOICE, log entry 11.) -/
def tableCode (nbits w : Nat) : Code :=
  match requestRows.find? (fun r => r.1 = bigEndianBytes (nbits / 8) w) with
  | some (lead, n) => .txFrame (lead ++ List.replicate n 0 ++ [termByte])
  | none =>
    if nbits ≤ 8 ∧ (w = 0xF5 ∨ w = 0xF6 ∨ w = 0xF7 ∨ w = 0xFE) then
      .rxFrame [0, 0, 0, BitVec.ofNat 8 w, 0]
    else .cmdWord (BitVec.ofNat 32 w)

/-- The instruction that the decoder reads from a table word. -/
def decodeTableWord (nbits w : Nat) : Option Instr :=
  match decode (tableCode nbits w) with
  | .ok i => some i
  | .error _ => none

end Sys2Proof
end

