-- ==== Sys2Proof/Config.lean ====
section
/-! DEFINITION. What is fixed for one SPE and not by the spec alone (R6). The parameters to which R6 gives
one value stand in Machine/Params.lean. -/

namespace Sys2Proof

/-- The parameter of R6 that R60 and R61 read: whether a request frame carries a separate command byte.
`true` is the spec's normative value (D10); `false` is the alternative of R61. No step changes it. -/
structure Config where
  reqCmdByte : Bool
  deriving DecidableEq, Repr

/-- READ_DEADLINE (R6, D7), in ticks: left open, a property of the transport. No rule of the SPE reads it;
the model admits a link timeout at any time. -/
opaque Config.readDeadline : Nat

end Sys2Proof
end

