-- ==== Sys2Proof/Machine/State.lean ====
section
/-! DEFINITION. The state of the SPE (10_state R18 to R32), the events of its four agents (R8, R74), the state
after reset (R128) and the reasons a step can stop. -/

namespace Sys2Proof.Machine

/-- The values of STATE (R26). Values 5 to 15 never occur. -/
inductive Engine where
  | idle | send | rxHdr | rxBody | sleep
  deriving DecidableEq, Repr

/-- The error kinds (R111). Codes 8 to 15 are never produced. -/
inductive ErrKind where
  | noError | framing | timeout | protocolMismatch | moduleError | ioError | tooManyDiscarded | illegalCmd
  deriving DecidableEq, Repr

/-- The state of the SPE: every register of R18 to R29, each stored once. `STATUS.BUSY`, `irq` and the PAYLOAD
window are computed (R26, R31, R25). -/
structure Spe where
  /-- CTRL.LINK_EN (R19). -/
  linkEn : Bool
  /-- CTRL.IRQ_EN (R19). -/
  irqEn : Bool
  /-- CMD.OPCODE (R20). -/
  cmdOp : BitVec 4
  /-- STATUS.DONE (R21). -/
  done : Bool
  /-- STATUS.OVR (R21). -/
  ovr : Bool
  /-- ERR.CODE (R22). -/
  errCode : ErrKind
  /-- ERR.TMO_SRC (R22). -/
  tmoSrc : Bool
  /-- ADDR (R23). -/
  addr : Byte
  /-- WDATA (R23). -/
  wdata : Word
  /-- OFFSET (R23). -/
  offset : BitVec 16
  /-- WANTED (R23). -/
  wanted : Word
  /-- MAX_TIME (R23). -/
  maxTime : Word
  /-- DISCARD_CAP (R23). -/
  discardCap : Word
  /-- RESULT (R24). -/
  result : Word
  /-- PLEN (R24). -/
  plen : BitVec 16
  /-- DISCARD_CNT (R24). -/
  discardCnt : Word
  /-- POLL_CNT (R24). -/
  pollCnt : Word
  /-- ELAPSED (R24). -/
  elapsed : Word
  /-- LAST_HDR (R24). -/
  lastHdr : Word
  /-- STATE (R26). -/
  engine : Engine
  /-- L_OP (R27). -/
  lOp : BitVec 4
  /-- L_ADDR (R27). -/
  lAddr : Byte
  /-- L_WDATA (R27). -/
  lWdata : Word
  /-- L_OFFSET (R27). -/
  lOffset : BitVec 16
  /-- L_WANTED (R27). -/
  lWanted : Word
  /-- L_MAXTIME (R27). -/
  lMaxTime : Word
  /-- L_CAP (R27). -/
  lCap : Word
  /-- EXP_TYPE (R28). -/
  expType : Byte
  /-- HDR_TAG (R28). -/
  hdrTag : Byte
  /-- HDR_LEN (R28). -/
  hdrLen : BitVec 16
  /-- HDR_TYPE (R28). -/
  hdrType : Byte
  /-- SLEEP_CNT (R28). -/
  sleepCnt : BitVec 8
  /-- TXBUF (R29): the bytes in use. -/
  txbuf : List Byte
  /-- TXLEN (R29). -/
  txlen : BitVec 4
  /-- RXBUF (R29): the bytes in use. -/
  rxbuf : List Byte
  /-- OUT (R29): the bytes in use. -/
  out : List Byte
  deriving DecidableEq, Repr

/-- What the Link can answer to the pending request (R8, R74). -/
inductive LinkAnswer where
  | wrOk
  | wrIoErr
  | rdData (b : List Byte)
  | rdTimeout
  | rdIoErr
  deriving DecidableEq, Repr

/-- One event of one agent (R8, R74). A host access is given by its address (`memWrite`, `memRead`), or is the
next line of the host's program (`hostLine`). -/
inductive Event where
  | memWrite (a v : Word)
  | memRead (a : Word)
  | hostLine
  | link (ans : LinkAnswer)
  | tick
  | reset
  deriving DecidableEq, Repr

/-- The SPE, its configuration, and its environment as plain data: the events to come, the rest of the host's
program, and the words and bytes that have left the SPE (log entries 1, 4, 7, 8). -/
structure State where
  spe : Spe
  cfg : Config
  /-- The events to come, the next one first. -/
  inbox : List Event
  /-- The host's remaining lines. -/
  hostProg : List HostLine
  /-- The words host reads returned, latest first, each with the CSR it was read from (`none`: unmapped). -/
  hostReads : List (Option Csr × Word)
  /-- The bytes the Link accepted, in the order written (R37). -/
  linkOut : List Byte
  deriving DecidableEq, Repr

/-- Faults: there is none. No host access traps (R34, R122), and every error of a command is a next state (R113). -/
inductive Fault where
  deriving DecidableEq, Repr

/-- Why the model has no next state. -/
inductive Refusal where
  /-- Raised by `exec` for an instruction that has no meaning yet. Safe: the model stops. -/
  | notModelled (mnemonic : String)
  /-- Raised when an event is taken that R74 does not enable: a Link answer with no such request pending, an
  `RD_DATA` of another length, the writing or arrival of a frame that is not the one pending, a host line when
  the host has none. "not an event of the model" (R74). Safe: the model stops. -/
  | eventNotEnabled
  /-- Raised when a line of the host's program names a wire frame, which is no line of R66 or R67. Safe: the model
  stops. -/
  | notAHostLine
  deriving DecidableEq, Repr

/-- The SPE after reset: the reset column of R18 to R28; no byte of a buffer in use (R29, log entry 5). -/
def Spe.reset : Spe where
  linkEn := false
  irqEn := false
  cmdOp := 0
  done := false
  ovr := false
  errCode := .noError
  tmoSrc := false
  addr := 0
  wdata := 0
  offset := 0
  wanted := 0
  maxTime := 0
  discardCap := 0
  result := 0
  plen := 0
  discardCnt := 0
  pollCnt := 0
  elapsed := 0
  lastHdr := 0
  engine := .idle
  lOp := 0
  lAddr := 0
  lWdata := 0
  lOffset := 0
  lWanted := 0
  lMaxTime := 0
  lCap := 0
  expType := 0
  hdrTag := 0
  hdrLen := 0
  hdrType := 0
  sleepCnt := 0
  txbuf := []
  txlen := 0
  rxbuf := []
  out := []

/-- The machine right after reset (R128, R129), with the normative REQ_CMD_BYTE and no event, line or output yet. -/
def State.reset : State where
  spe := Spe.reset
  cfg := { reqCmdByte := true }
  inbox := []
  hostProg := []
  hostReads := []
  linkOut := []

end Sys2Proof.Machine
end

