-- ==== Sys2Proof/Machine/Flags.lean ====
section
/-! DEFINITION. The flags (R32), the words in which the host reads them (R19 to R22) and the interrupt (R31). -/

namespace Sys2Proof.Machine

/-- The value of `STATUS[11:8]` (R26). -/
def Engine.code : Engine → BitVec 4
  | .idle => 0
  | .send => 1
  | .rxHdr => 2
  | .rxBody => 3
  | .sleep => 4

/-- A link request is pending (R26). -/
def Engine.pending : Engine → Bool
  | .send | .rxHdr | .rxBody => true
  | .idle | .sleep => false

/-- The value of `ERR[3:0]` (R111). -/
def ErrKind.code : ErrKind → BitVec 4
  | .noError => 0
  | .framing => 1
  | .timeout => 2
  | .protocolMismatch => 3
  | .moduleError => 4
  | .ioError => 5
  | .tooManyDiscarded => 6
  | .illegalCmd => 7

/-- `STATUS.BUSY`: 1 exactly when STATE is not IDLE (R26). -/
def Spe.busy (p : Spe) : Bool := decide (p.engine ≠ .idle)

/-- The interrupt output (R31, R120). -/
def Spe.irq (p : Spe) : Bool := p.irqEn && p.done

/-- CTRL as the host reads it (R19). -/
def ctrlWord (p : Spe) : Word := bitAt p.linkEn 0 ||| bitAt p.irqEn 1

/-- STATUS as the host reads it (R21). -/
def statusWord (p : Spe) : Word :=
  bitAt p.busy 0 ||| bitAt p.done 1 ||| bitAt p.ovr 2 ||| (p.engine.code.setWidth 32 <<< 8)

/-- ERR as the host reads it (R22). -/
def errWord (p : Spe) : Word := p.errCode.code.setWidth 32 ||| bitAt p.tmoSrc 8

/-- A host write to STATUS: DONE and OVR clear where the word has a 1; the rest is read-only (R21). -/
def writeStatus (v : Word) (p : Spe) : Spe :=
  { p with done := p.done && !v.getLsbD 1, ovr := p.ovr && !v.getLsbD 2 }

/-- The timeout test `ELAPSED > sext_32(L_MAXTIME)`, on integers (R100, R103). -/
def Spe.timedOut (p : Spe) : Bool := decide ((p.elapsed.toNat : Int) > p.lMaxTime.toInt)

/-- The error test of a status value (R100, R105). -/
def hasErrorBit (status : Word) : Bool := decide (status &&& errorMask ≠ 0)

/-- The wanted test of a status value (R100, R106). -/
def meetsWanted (status wanted : Word) : Bool := decide (status &&& wanted = wanted)

end Sys2Proof.Machine
end

