-- ==== Sys2Proof/Machine/Operands.lean ====
section
/-! DEFINITION. The operands of a command: the argument CSRs, their latched copies, the echo and the value of a
reply (R23, R27, R63), and the CSR addresses with what a host read of each returns (R18, R25, R34). -/

namespace Sys2Proof.Machine

/-! ### Addresses -/

/-- The byte offset of a CSR (R18). -/
def csrOffset : Csr → Word
  | .ctrl => 0x000
  | .cmd => 0x004
  | .status => 0x008
  | .err => 0x00C
  | .addr => 0x010
  | .wdata => 0x014
  | .offset => 0x018
  | .wanted => 0x01C
  | .maxTime => 0x020
  | .discardCap => 0x024
  | .result => 0x028
  | .plen => 0x02C
  | .discardCnt => 0x030
  | .pollCnt => 0x034
  | .elapsed => 0x038
  | .lastHdr => 0x03C
  | .payload k => 0x10000 ||| (k.setWidth 32 <<< 2)

/-- The CSR at a host address: bits 1:0 are ignored and bits above 16 are not decoded (R34). `none` is an
unmapped offset (R18). -/
def csrAt (a : Word) : Option Csr :=
  if a.getLsbD 16 then some (.payload (a.extractLsb' 2 14))
  else match (a.extractLsb' 2 14).toNat with
  | 0 => some .ctrl
  | 1 => some .cmd
  | 2 => some .status
  | 3 => some .err
  | 4 => some .addr
  | 5 => some .wdata
  | 6 => some .offset
  | 7 => some .wanted
  | 8 => some .maxTime
  | 9 => some .discardCap
  | 10 => some .result
  | 11 => some .plen
  | 12 => some .discardCnt
  | 13 => some .pollCnt
  | 14 => some .elapsed
  | 15 => some .lastHdr
  | _ => none

/-! ### Host reads -/

/-- `P(i)` of R25: byte `i` of OUT below PLEN, else 0. -/
def payloadByte (p : Spe) (i : Nat) : Byte := if i < p.plen.toNat then p.out.getD i 0 else 0

/-- Word `k` of the PAYLOAD window (R25). -/
def payloadWord (p : Spe) (k : Nat) : Word :=
  u32le (payloadByte p (4 * k)) (payloadByte p (4 * k + 1)) (payloadByte p (4 * k + 2)) (payloadByte p (4 * k + 3))

/-- The word a host read of a CSR returns; reserved fields read 0 (R18 to R25). -/
def csrRead (p : Spe) : Csr → Word
  | .ctrl => ctrlWord p
  | .cmd => p.cmdOp.setWidth 32
  | .status => statusWord p
  | .err => errWord p
  | .addr => p.addr.setWidth 32
  | .wdata => p.wdata
  | .offset => p.offset.setWidth 32
  | .wanted => p.wanted
  | .maxTime => p.maxTime
  | .discardCap => p.discardCap
  | .result => p.result
  | .plen => p.plen.setWidth 32
  | .discardCnt => p.discardCnt
  | .pollCnt => p.pollCnt
  | .elapsed => p.elapsed
  | .lastHdr => p.lastHdr
  | .payload k => payloadWord p k.toNat

/-- `MemRead(a, 4)`: an unmapped offset reads 0 (R34). -/
def memReadWord (p : Spe) (a : Word) : Word :=
  match csrAt a with
  | some c => csrRead p c
  | none => 0

/-! ### Operands -/

/-- The copies taken when a command is accepted (R27, R75). -/
def latch (op : BitVec 4) (p : Spe) : Spe :=
  { p with
    lOp := op, lAddr := p.addr, lWdata := p.wdata, lOffset := p.offset
    lWanted := p.wanted, lMaxTime := p.maxTime, lCap := p.discardCap }

/-- The echo byte of a reply payload is `a`; an empty payload has no echo (R63, R97). -/
def echoes (a : Byte) (r : List Byte) : Bool := decide (r.head? = some a)

/-- The register value of a read-reply payload, bytes 1 to 4; `none` for a payload under 5 bytes (R63, R92). -/
def replyValue : List Byte → Option Word
  | _ :: b0 :: b1 :: b2 :: b3 :: _ => some (u32le b0 b1 b2 b3)
  | _ => none

/-- LAST_HDR of a header (R24, R79). -/
def headerWord (tag : Byte) (len : BitVec 16) (type : Byte) : Word :=
  tag.setWidth 32 ||| (type.setWidth 32 <<< 8) ||| (len.setWidth 32 <<< 16)

/-- The bytes of the pending `LinkWrite`: `TXBUF[0..TXLEN)` (R26). -/
def Spe.pendingFrame (p : Spe) : List Byte := p.txbuf.take p.txlen.toNat

end Sys2Proof.Machine
end

