-- ==== Sys2Proof/Machine/Ops.lean ====
section
/-! DEFINITION. The shared operations: ending a command (the SPE's only exception entry, R113) and acknowledging
it, accepting a command, starting a transaction, the link steps, the discard loop, the finish rules, the timer,
host accesses and the reset. -/

namespace Sys2Proof.Machine

/-! ### Ending a command (R113) and acknowledging the end (R116) -/

/-- `end(K)`: `complete(OK)` is `endCmd .noError`, `raise K` is `endCmd K` (R113). -/
def endCmd (k : ErrKind) (p : Spe) : Spe := { p with errCode := k, engine := .idle, done := true }

/-- `ERR.TMO_SRC <- src; raise TIMEOUT` (R79, R80, R100). -/
def raiseTimeout (src : Bool) (p : Spe) : Spe := endCmd .timeout { p with tmoSrc := src }

/-- The host's acknowledgement of an end, a write of 1 to `STATUS.DONE` (R116): nothing is restored. -/
def acknowledge (p : Spe) : Spe := writeStatus 0x2 p

/-! ### Accepting a command (R75) -/

/-- The effects of acceptance before the command's start rule (R75). -/
def accept (op : BitVec 4) (p : Spe) : Spe :=
  { latch op p with
    cmdOp := op, done := false, errCode := .noError, tmoSrc := false
    result := 0, plen := 0, discardCnt := 0, pollCnt := 0, elapsed := 0 }

/-- A write of OPCODE `op` to CMD: while busy it only sets OVR; else the command is accepted and its start rule
runs (R75). -/
def issue (op : BitVec 4) (start : Spe → Spe) (p : Spe) : Spe :=
  if p.busy then { p with ovr := true } else start (accept op p)

/-! ### Starting a transaction -/

/-- `start_transaction` (R76). -/
def startTransaction (request : List Byte) (exp : Byte) (p : Spe) : Spe :=
  if p.linkEn then
    { p with
      discardCnt := 0, txbuf := request, txlen := BitVec.ofNat 4 request.length
      expType := exp, engine := .send }
  else endCmd .ioError { p with discardCnt := 0 }

/-- `start_listen` (R77). -/
def startListen (exp : Byte) (p : Spe) : Spe :=
  if p.linkEn then { p with discardCnt := 0, expType := exp, engine := .rxHdr }
  else endCmd .ioError { p with discardCnt := 0 }

/-- `status_read()` (R99). -/
def statusRead (cfg : Config) (p : Spe) : Spe :=
  startTransaction (requestBytes cfg.reqCmdByte tyReadReq cbRead [statusAddr]) tyReadReply p

/-! ### The discard loop (R81, R82) -/

/-- `foreign()` (R81). -/
def foreign (p : Spe) : Spe :=
  if p.lCap ≠ 0 ∧ p.lCap ≤ p.discardCnt then endCmd .tooManyDiscarded p
  else { p with discardCnt := satInc p.discardCnt, engine := .rxHdr }

/-! ### Finish rules, on the payload of the matching frame -/

/-- WRITE_REG (R90). -/
def finishWriteReg (r : List Byte) (p : Spe) : Spe :=
  if echoes p.lAddr r then endCmd .noError p else endCmd .protocolMismatch p

/-- READ_REG (R92). -/
def finishReadReg (r : List Byte) (p : Spe) : Spe :=
  if echoes p.lAddr r then
    match replyValue r with
    | some v => endCmd .noError { p with result := v }
    | none => endCmd .protocolMismatch p
  else endCmd .protocolMismatch p

/-- READ_BUF (R94). -/
def finishReadBuf (r : List Byte) (p : Spe) : Spe :=
  if echoes bufSubId r then
    endCmd .noError { p with out := r.drop 1, plen := BitVec.ofNat 16 (r.length - 1) }
  else endCmd .protocolMismatch p

/-- READ_STREAM (R96). -/
def finishReadStream (r : List Byte) (p : Spe) : Spe :=
  endCmd .noError { p with out := r, plen := BitVec.ofNat 16 r.length }

/-- What POLL_STATUS does with a status snapshot: timeout, then error bits, then wanted bits, else sleep
(R100, R104). -/
def judgeStatus (status : Word) (p : Spe) : Spe :=
  if p.timedOut then raiseTimeout true p
  else if hasErrorBit status then endCmd .moduleError { p with result := status }
  else if meetsWanted status p.lWanted then endCmd .noError p
  else { p with engine := .sleep, sleepCnt := pollInterval }

/-- POLL_STATUS (R100). -/
def finishPollStatus (r : List Byte) (p : Spe) : Spe :=
  if echoes statusAddr r then
    match replyValue r with
    | some status => judgeStatus status { p with pollCnt := satInc p.pollCnt }
    | none => endCmd .protocolMismatch p
  else endCmd .protocolMismatch p

/-- `finish(L_OP, r)` (R80). A reserved L_OP never runs (log entry 9). -/
def finish (r : List Byte) (p : Spe) : Spe :=
  match p.lOp.toNat with
  | 1 => finishWriteReg r p
  | 2 => finishReadReg r p
  | 3 => finishReadBuf r p
  | 4 => finishReadStream r p
  | 5 => finishPollStatus r p
  | _ => endCmd .illegalCmd p

/-! ### Link steps (R78 to R80) -/

/-- The Link takes the pending frame: `WR_OK` in SEND (R78). -/
def requestWritten (s : State) : State :=
  { s with spe := { s.spe with engine := .rxHdr }, linkOut := s.linkOut ++ s.spe.pendingFrame }

/-- `RD_DATA` of a header in RX_HDR (R79). -/
def headerReceived (tag : Byte) (len : BitVec 16) (type : Byte) (p : Spe) : Spe :=
  { p with
    hdrTag := tag, hdrLen := len, hdrType := type
    lastHdr := headerWord tag len type, engine := .rxBody }

/-- `RD_DATA` of a body in RX_BODY: the terminator, then the type, then the finish rule (R80). -/
def bodyReceived (b : List Byte) (p : Spe) : Spe :=
  match decodeBody p.hdrLen b with
  | none => endCmd .framing p
  | some r =>
    if p.hdrType = p.expType then finish r { p with rxbuf := r }
    else foreign { p with rxbuf := r }

/-- The writing of the request frame `f`: R78's `WR_OK`, if `f` is the pending `LinkWrite`. -/
def writeFrame (f : List Byte) (s : State) : Host.Outcome State Fault Refusal :=
  if s.spe.engine = .send ∧ s.spe.pendingFrame = f then .next (requestWritten s)
  else .refused .eventNotEnabled

/-- The arrival of the rest of a frame whose header was `tag`, `|p|`, `type`: R80's `RD_DATA`, if a frame with that
header is being received. -/
def receiveFrame (tag type : Byte) (p : List Byte) (term : Byte) (s : State) :
    Host.Outcome State Fault Refusal :=
  if s.spe.engine = .rxBody ∧ s.spe.hdrTag = tag ∧ s.spe.hdrType = type ∧ s.spe.hdrLen.toNat = p.length then
    .next { s with spe := bodyReceived (p ++ [term]) s.spe }
  else .refused .eventNotEnabled

/-! ### The timer (R101) -/

/-- The next status read, when the sleep has no tick left (R101). -/
def wakeIfDue (cfg : Config) (p : Spe) : Spe := if p.sleepCnt = 0 then statusRead cfg p else p

/-- The `tick` event (R101). -/
def tick (cfg : Config) (p : Spe) : Spe :=
  if p.engine ≠ .idle ∧ p.lOp = 5 then
    if p.engine = .sleep then
      wakeIfDue cfg { p with elapsed := satInc p.elapsed, sleepCnt := p.sleepCnt - 1 }
    else { p with elapsed := satInc p.elapsed }
  else p

/-! ### Host accesses (R34) -/

/-- A host write to CTRL (R87). -/
def writeCtrl (v : Word) (p : Spe) : Spe :=
  let q := { p with linkEn := v.getLsbD 0, irqEn := v.getLsbD 1 }
  if p.linkEn && !v.getLsbD 0 && p.engine.pending then endCmd .ioError q else q

/-- A host write to a CSR other than CMD (R18, R34). A write to CMD is an instruction: it is decoded and
executed (Agents.lean). -/
def writeCsr (c : Csr) (v : Word) (p : Spe) : Spe :=
  match c with
  | .ctrl => writeCtrl v p
  | .status => writeStatus v p
  | .addr => { p with addr := v.setWidth 8 }
  | .wdata => { p with wdata := v }
  | .offset => { p with offset := v.setWidth 16 }
  | .wanted => { p with wanted := v }
  | .maxTime => { p with maxTime := v }
  | .discardCap => { p with discardCap := v }
  | .cmd | .err | .result | .plen | .discardCnt | .pollCnt | .elapsed | .lastHdr | .payload _ => p

/-- `csrw NAME, v` of a CSR other than CMD (R66). -/
def State.csrWrite (c : Csr) (v : Word) (s : State) : State := { s with spe := writeCsr c v s.spe }

/-- `csrr NAME` (R66): the word is returned to the host and nothing else changes (R43). -/
def State.csrReadTo (c : Csr) (s : State) : State :=
  { s with hostReads := (some c, csrRead s.spe c) :: s.hostReads }

/-- `MemRead(a, 4)` (R34). -/
def State.memRead (a : Word) (s : State) : State :=
  { s with hostReads := (csrAt a, memReadWord s.spe a) :: s.hostReads }

/-! ### Host lines (R66, R67) -/

/-- Lines put before the rest of the host's program. -/
def State.queue (ls : List HostLine) (s : State) : State := { s with hostProg := ls ++ s.hostProg }

/-- The reads `csrr PAYLOAD[k]` for k = 0 to ceil(n/4) - 1 (R67). -/
def payloadLines (n : Nat) : List HostLine :=
  (List.range ((n + 3) / 4)).map fun k => .csrr (.payload (BitVec.ofNat 14 k))

/-- The effect of a line, already taken off the program, that issues no command. A loop line puts itself back
until its condition holds. -/
def plainLine (l : HostLine) (s : State) : State :=
  match l with
  | .csrw c v => s.csrWrite c v
  | .csrr c => s.csrReadTo c
  | .waitNotBusy =>
    if (csrRead s.spe .status).getLsbD 0 then (s.csrReadTo .status).queue [.waitNotBusy]
    else s.csrReadTo .status
  | .waitIrq => if s.spe.irq then s else s.queue [.waitIrq]
  | .readPayload => (s.csrReadTo .plen).queue (payloadLines (csrRead s.spe .plen).toNat)
  | .run _ => s

/-- A macro: its first line runs and the others are put before the rest of the program (R67, log entry 7). No
macro begins with a command. -/
def beginMacro (ls : List HostLine) (s : State) : State :=
  match ls with
  | [] => s
  | l :: rest => plainLine l (s.queue rest)

/-! ### Reset (R128) -/

/-- The `reset` event: the SPE's state is that after reset; the configuration and the environment are not the
SPE's (R30, R128). -/
def State.resetSpe (s : State) : State := { s with spe := Spe.reset }

end Sys2Proof.Machine
end

