-- ==== Sys2Proof/Machine/HostCommands.lean ====
section
/-! DEFINITION. The meanings of the `host_cmd` rows: a word written to CMD (R54, R55, R75) with the start rule of
its command (R89, R91, R93, R95, R99) or ILLEGAL_CMD (R112). -/

namespace Sys2Proof.Machine

/-- A command issued: OPCODE `op` with its start rule (R75). -/
def issueCommand (op : BitVec 4) (start : Spe → Spe) (s : State) : Host.Outcome State Fault Refusal :=
  .next { s with spe := issue op start s.spe }

/-- Start of WRITE_REG (R89). -/
def startWriteReg (cfg : Config) (p : Spe) : Spe :=
  startTransaction (requestBytes cfg.reqCmdByte tyWriteReq cbWrite ([p.lAddr] ++ le32 p.lWdata)) tyWriteAck p

/-- Start of READ_REG (R91). -/
def startReadReg (cfg : Config) (p : Spe) : Spe :=
  startTransaction (requestBytes cfg.reqCmdByte tyReadReq cbRead [p.lAddr]) tyReadReply p

/-- Start of READ_BUF (R93). -/
def startReadBuf (cfg : Config) (p : Spe) : Spe :=
  startTransaction (requestBytes cfg.reqCmdByte tyBufReq cbBuf ([bufSubId] ++ le16 p.lOffset)) tyBufReply p

/-- Start of READ_STREAM (R95). -/
def startReadStream (p : Spe) : Spe := startListen tyStreamPush p

/-- Start of POLL_STATUS (R99). -/
def startPollStatus (cfg : Config) (p : Spe) : Spe := statusRead cfg p

/-- WRITE_REG (R55, R75, R89). -/
def execWriteReg (_ign : BitVec 28) (s : State) : Host.Outcome State Fault Refusal :=
  issueCommand 1 (startWriteReg s.cfg) s

/-- READ_REG (R55, R75, R91). -/
def execReadReg (_ign : BitVec 28) (s : State) : Host.Outcome State Fault Refusal :=
  issueCommand 2 (startReadReg s.cfg) s

/-- READ_BUF (R55, R75, R93). -/
def execReadBuf (_ign : BitVec 28) (s : State) : Host.Outcome State Fault Refusal :=
  issueCommand 3 (startReadBuf s.cfg) s

/-- READ_STREAM (R55, R75, R95). -/
def execReadStream (_ign : BitVec 28) (s : State) : Host.Outcome State Fault Refusal :=
  issueCommand 4 startReadStream s

/-- POLL_STATUS (R55, R75, R99). -/
def execPollStatus (_ign : BitVec 28) (s : State) : Host.Outcome State Fault Refusal :=
  issueCommand 5 (startPollStatus s.cfg) s

/-- The reserved code 0x0 (R112). -/
def execIllegal0 (_ign : BitVec 28) (s : State) : Host.Outcome State Fault Refusal :=
  issueCommand 0 (endCmd .illegalCmd) s

/-- The reserved codes 0x6 and 0x7 (R112). -/
def execIllegal67 (lo : BitVec 1) (_ign : BitVec 28) (s : State) : Host.Outcome State Fault Refusal :=
  issueCommand (0b011#3 ++ lo) (endCmd .illegalCmd) s

/-- The reserved codes 0x8 to 0xF (R112). -/
def execIllegal8F (lo : BitVec 3) (_ign : BitVec 28) (s : State) : Host.Outcome State Fault Refusal :=
  issueCommand (0b1#1 ++ lo) (endCmd .illegalCmd) s

end Sys2Proof.Machine
end

