-- ==== Sys2Proof/Machine/HostMacros.lean ====
section
/-! DEFINITION. The meanings of the `pseudo` rows: host macros (R67). A macro stands for its lines: its first line
runs in the macro's own step, the others are the next lines of the host's program (log entry 7). -/

namespace Sys2Proof.Machine

/-- `WRITE_REG a, v` (R67). -/
def execDoWriteReg (a v : Word) (s : State) : Host.Outcome State Fault Refusal :=
  .next (beginMacro (writeRegLines a v) s)

/-- `READ_REG a` (R67). -/
def execDoReadReg (a : Word) (s : State) : Host.Outcome State Fault Refusal :=
  .next (beginMacro (readRegLines a) s)

/-- `READ_BUF o` (R67). -/
def execDoReadBuf (o : Word) (s : State) : Host.Outcome State Fault Refusal :=
  .next (beginMacro (readBufLines o) s)

/-- `POLL w, t` (R67). -/
def execDoPoll (w t : Word) (s : State) : Host.Outcome State Fault Refusal :=
  .next (beginMacro (pollLines w t) s)

/-- `WAIT_START`: `POLL 0x3, 3000` (R67, R109). -/
def execWaitStart (s : State) : Host.Outcome State Fault Refusal :=
  .next (beginMacro (pollLines startBits waitStartTime) s)

/-- `WAIT_DATA t`: `POLL 0x100, t` (R67, R110). -/
def execWaitData (t : Word) (s : State) : Host.Outcome State Fault Refusal :=
  .next (beginMacro (pollLines dataReadyBit t) s)

/-- `WAIT_DONE` (R67). -/
def execWaitDone (s : State) : Host.Outcome State Fault Refusal :=
  .next (beginMacro waitDoneLines s)

end Sys2Proof.Machine
end

