-- ==== Sys2Proof/Machine/WireRequests.lean ====
section
/-! DEFINITION. The meanings of the `wire_request` and `wire_request_alt` rows: the Link takes the pending frame
(R78), whose bytes are the row's (R62). The frames are written here from R62's table; that the start rules make
these very frames is a statement of its own. -/

namespace Sys2Proof.Machine

/-- `CC 06 00 F9 05 a v0 v1 v2 v3 CD` (R62), sent by WRITE_REG. -/
def execReqWrite (a : Byte) (v : Word) (s : State) : Host.Outcome State Fault Refusal :=
  writeFrame ([0xCC, 0x06, 0x00, 0xF9, 0x05, a] ++ le32 v ++ [0xCD]) s

/-- `CC 02 00 F8 01 a CD` (R62), sent by READ_REG and POLL_STATUS. -/
def execReqRead (a : Byte) (s : State) : Host.Outcome State Fault Refusal :=
  writeFrame [0xCC, 0x02, 0x00, 0xF8, 0x01, a, 0xCD] s

/-- `CC 04 00 FA 03 E8 o0 o1 CD` (R62), sent by READ_BUF. -/
def execReqBuf (o : BitVec 16) (s : State) : Host.Outcome State Fault Refusal :=
  writeFrame ([0xCC, 0x04, 0x00, 0xFA, 0x03, 0xE8] ++ le16 o ++ [0xCD]) s

/-- `CC 05 00 F9 a v0 v1 v2 v3 CD` (R62, R61), sent by WRITE_REG when REQ_CMD_BYTE is false. -/
def execReqWriteAlt (a : Byte) (v : Word) (s : State) : Host.Outcome State Fault Refusal :=
  writeFrame ([0xCC, 0x05, 0x00, 0xF9, a] ++ le32 v ++ [0xCD]) s

/-- `CC 01 00 F8 a CD` (R62, R61), sent by READ_REG and POLL_STATUS when REQ_CMD_BYTE is false. -/
def execReqReadAlt (a : Byte) (s : State) : Host.Outcome State Fault Refusal :=
  writeFrame [0xCC, 0x01, 0x00, 0xF8, a, 0xCD] s

/-- `CC 03 00 FA E8 o0 o1 CD` (R62, R61), sent by READ_BUF when REQ_CMD_BYTE is false. -/
def execReqBufAlt (o : BitVec 16) (s : State) : Host.Outcome State Fault Refusal :=
  writeFrame ([0xCC, 0x03, 0x00, 0xFA, 0xE8] ++ le16 o ++ [0xCD]) s

end Sys2Proof.Machine
end

