-- ==== Sys2Proof/Machine/WireResponses.lean ====
section
/-! DEFINITION. The meanings of the `wire_response` rows: the body step of a frame of the row's type (R80), with
the finish rule of the command that expects it (R90, R92, R94, R96, R100) or the discard rule (R81). -/

namespace Sys2Proof.Machine

/-- A write-ack frame, type 0xF5 (R80, R90). -/
def execRspWriteAck (tag : Byte) (p : List Byte) (term : Byte) (s : State) : Host.Outcome State Fault Refusal :=
  receiveFrame tag tyWriteAck p term s

/-- A read-reply frame, type 0xF6 (R80, R92, R100). -/
def execRspReadReply (tag : Byte) (p : List Byte) (term : Byte) (s : State) : Host.Outcome State Fault Refusal :=
  receiveFrame tag tyReadReply p term s

/-- A buffer-reply frame, type 0xF7 (R80, R94). -/
def execRspBufReply (tag : Byte) (p : List Byte) (term : Byte) (s : State) : Host.Outcome State Fault Refusal :=
  receiveFrame tag tyBufReply p term s

/-- A stream-push frame, type 0xFE (R80, R96). -/
def execRspStreamPush (tag : Byte) (p : List Byte) (term : Byte) (s : State) : Host.Outcome State Fault Refusal :=
  receiveFrame tag tyStreamPush p term s

end Sys2Proof.Machine
end

