-- ==== Sys2Proof/Machine/Dispatch.lean ====
section
/-! DEFINITION. The meaning of an instruction, one arm per row of the opcode table. -/

namespace Sys2Proof.Machine

def exec (i : Instr) (s : State) : Host.Outcome State Fault Refusal :=
  match i with
  -- host_cmd
  | .writeReg ign => Sys2Proof.Machine.execWriteReg ign s
  | .readReg ign => Sys2Proof.Machine.execReadReg ign s
  | .readBuf ign => Sys2Proof.Machine.execReadBuf ign s
  | .readStream ign => Sys2Proof.Machine.execReadStream ign s
  | .pollStatus ign => Sys2Proof.Machine.execPollStatus ign s
  | .illegal0 ign => Sys2Proof.Machine.execIllegal0 ign s
  | .illegal67 lo ign => Sys2Proof.Machine.execIllegal67 lo ign s
  | .illegal8F lo ign => Sys2Proof.Machine.execIllegal8F lo ign s
  -- wire_request
  | .reqWrite a v => Sys2Proof.Machine.execReqWrite a v s
  | .reqRead a => Sys2Proof.Machine.execReqRead a s
  | .reqBuf o => Sys2Proof.Machine.execReqBuf o s
  -- wire_request_alt
  | .reqWriteAlt a v => Sys2Proof.Machine.execReqWriteAlt a v s
  | .reqReadAlt a => Sys2Proof.Machine.execReqReadAlt a s
  | .reqBufAlt o => Sys2Proof.Machine.execReqBufAlt o s
  -- wire_response
  | .rspWriteAck tag p term => Sys2Proof.Machine.execRspWriteAck tag p term s
  | .rspReadReply tag p term => Sys2Proof.Machine.execRspReadReply tag p term s
  | .rspBufReply tag p term => Sys2Proof.Machine.execRspBufReply tag p term s
  | .rspStreamPush tag p term => Sys2Proof.Machine.execRspStreamPush tag p term s
  -- pseudo
  | .doWriteReg a v => Sys2Proof.Machine.execDoWriteReg a v s
  | .doReadReg a => Sys2Proof.Machine.execDoReadReg a s
  | .doReadBuf o => Sys2Proof.Machine.execDoReadBuf o s
  | .doPoll w t => Sys2Proof.Machine.execDoPoll w t s
  | .waitStart => Sys2Proof.Machine.execWaitStart s
  | .waitData t => Sys2Proof.Machine.execWaitData t s
  | .waitDone => Sys2Proof.Machine.execWaitDone s

end Sys2Proof.Machine
end

