-- ==== Sys2Proof/Machine/Agents.lean ====
section
/-! DEFINITION. The events of the four agents (R8, R74): where each is enabled, which instruction it runs, and its
effect where it runs none; and where a table word is placed so that the next step runs it. -/

namespace Sys2Proof.Machine

/-! ### Host -/

/-- `MemWrite(a, 4, v)`: a write to CMD runs the command word's instruction; an unmapped offset ignores the
write (R34, R75). -/
def hostWrite (a v : Word) (s : State) : Host.Outcome State Fault Refusal :=
  match csrAt a with
  | some .cmd => exec (decodeCmd v) s
  | some c => .next (s.csrWrite c v)
  | none => .next s

/-- An instruction that a host program names: a command (`cmd MNEMONIC`, R66) or a pseudo-instruction (R67). -/
def isHostLine : Instr → Bool
  | .reqWrite _ _ | .reqRead _ | .reqBuf _ | .reqWriteAlt _ _ | .reqReadAlt _ | .reqBufAlt _ => false
  | .rspWriteAck _ _ _ | .rspReadReply _ _ _ | .rspBufReply _ _ _ | .rspStreamPush _ _ _ => false
  | .writeReg _ | .readReg _ | .readBuf _ | .readStream _ | .pollStatus _ => true
  | .illegal0 _ | .illegal67 _ _ | .illegal8F _ _ => true
  | .doWriteReg _ _ | .doReadReg _ | .doReadBuf _ | .doPoll _ _ => true
  | .waitStart | .waitData _ | .waitDone => true

/-- The host runs the next line of its program (R66, R67). -/
def hostTurn (s : State) : Host.Outcome State Fault Refusal :=
  match s.hostProg with
  | [] => .refused .eventNotEnabled
  | .csrw c v :: rest => hostWrite (csrOffset c) v { s with hostProg := rest }
  | .run i :: rest =>
    if isHostLine i then exec i { s with hostProg := rest } else .refused .notAHostLine
  | l :: rest => .next (plainLine l { s with hostProg := rest })

/-! ### Link -/

/-- The bytes of the frame whose header has been received, completed by the body `b` (R56). -/
def receivedFrame (p : Spe) (b : List Byte) : List Byte := [p.hdrTag] ++ le16 p.hdrLen ++ [p.hdrType] ++ b

/-- An answer in SEND (R78): on `WR_OK` the pending frame's instruction runs. -/
def answerSend (ans : LinkAnswer) (s : State) : Host.Outcome State Fault Refusal :=
  match ans with
  | .wrOk =>
    match decodeTx s.spe.pendingFrame with
    | .ok i => exec i s
    | .error _ => .next (requestWritten s)
  | .wrIoErr => .next { s with spe := endCmd .ioError s.spe }
  | .rdData _ | .rdTimeout | .rdIoErr => .refused .eventNotEnabled

/-- An answer in RX_HDR (R79). -/
def answerHeader (ans : LinkAnswer) (s : State) : Host.Outcome State Fault Refusal :=
  match ans with
  | .rdData h =>
    match decodeHeader h with
    | some (tag, len, type) => .next { s with spe := headerReceived tag len type s.spe }
    | none => .refused .eventNotEnabled
  | .rdTimeout => .next { s with spe := raiseTimeout false s.spe }
  | .rdIoErr => .next { s with spe := endCmd .ioError s.spe }
  | .wrOk | .wrIoErr => .refused .eventNotEnabled

/-- An answer in RX_BODY (R80): on a body of `HDR_LEN + 1` bytes the frame's instruction runs, and a frame of
unknown type, which is no row of the table, is received by the same operation (R58). -/
def answerBody (ans : LinkAnswer) (s : State) : Host.Outcome State Fault Refusal :=
  match ans with
  | .rdData b =>
    if b.length = s.spe.hdrLen.toNat + 1 then
      match decodeRx (receivedFrame s.spe b) with
      | .ok i => exec i s
      | .error _ => .next { s with spe := bodyReceived b s.spe }
    else .refused .eventNotEnabled
  | .rdTimeout => .next { s with spe := raiseTimeout false s.spe }
  | .rdIoErr => .next { s with spe := endCmd .ioError s.spe }
  | .wrOk | .wrIoErr => .refused .eventNotEnabled

/-- The Link answers the pending request; in IDLE and SLEEP there is none (R74). -/
def linkAnswer (ans : LinkAnswer) (s : State) : Host.Outcome State Fault Refusal :=
  match s.spe.engine with
  | .send => answerSend ans s
  | .rxHdr => answerHeader ans s
  | .rxBody => answerBody ans s
  | .idle | .sleep => .refused .eventNotEnabled

/-! ### All agents -/

/-- One event (R8, R74). -/
def takeEvent (e : Event) (s : State) : Host.Outcome State Fault Refusal :=
  match e with
  | .memWrite a v => hostWrite a v s
  | .memRead a => .next (s.memRead a)
  | .hostLine => hostTurn s
  | .link ans => linkAnswer ans s
  | .tick => .next { s with spe := tick s.cfg s.spe }
  | .reset => .next s.resetSpe

/-- The next event of the inbox is taken. With none the SPE waits (R129, log entry 1). -/
def stepInbox (s : State) : Host.Outcome State Fault Refusal :=
  match s.inbox with
  | [] => .next s
  | e :: rest => takeEvent e { s with inbox := rest }

/-! ### Placing a table word (log entries 3 and 11) -/

/-- The command and reply type of a frame type, so that a frame is placed in a command that uses it. -/
def commandOf (type : Byte) : BitVec 4 × Byte :=
  if type = tyWriteReq ∨ type = tyWriteAck then (1, tyWriteAck)
  else if type = tyReadReq ∨ type = tyReadReply then (2, tyReadReply)
  else if type = tyBufReq ∨ type = tyBufReply then (3, tyBufReply)
  else (4, tyStreamPush)

/-- The state with a command of the frame's type running on an open transport. -/
def withCommand (type : Byte) (p : Spe) : Spe :=
  { p with
    linkEn := true, cmdOp := (commandOf type).1, lOp := (commandOf type).1
    expType := (commandOf type).2 }

/-- The code placed where the next step takes it: a command word as the host's next write to CMD; a request frame
as the pending frame with `WR_OK` as the Link's next answer; a response frame with its header received and its
body as the Link's next answer; host lines as the host's next lines. -/
def placeCode (c : Code) (s : State) : State :=
  match c with
  | .cmdWord w => { s with inbox := .memWrite (csrOffset .cmd) w :: s.inbox }
  | .txFrame bs =>
    { s with
      cfg := { reqCmdByte := decide (bs.length ∈ [11, 7, 9]) }
      spe := { withCommand (bs.getD 3 0) s.spe with
               txbuf := bs, txlen := BitVec.ofNat 4 bs.length, engine := .send }
      inbox := .link .wrOk :: s.inbox }
  | .rxFrame (tag :: l0 :: l1 :: type :: rest) =>
    { s with
      spe := headerReceived tag (u16le l0 l1) type (withCommand type s.spe)
      inbox := .link (.rdData rest) :: s.inbox }
  | .rxFrame _ => s
  | .lines ls => { s with hostProg := ls ++ s.hostProg, inbox := .hostLine :: s.inbox }

end Sys2Proof.Machine
end

