-- ==== Sys2Proof/Machine/Step.lean ====
section
/-! DEFINITION. The step of the machine: one event (R8). -/

namespace Sys2Proof.Machine

/-- One step: the next event of the inbox (R8, R48). -/
def step (s : State) : Host.Outcome State Fault Refusal := stepInbox s

/-- `s` with a table word placed so that the next step runs it (log entries 3 and 11). -/
def State.withFetchWord (s : State) (nbits w : Nat) : State := placeCode (tableCode nbits w) s

end Sys2Proof.Machine
end

