-- ==== Sys2Proof/Safety.lean ====
section
/-! DEFINITION. What claims about runs are stated in: outcomes, runs of several steps, the invariant of the SPE,
traces of events, and the fairness of the Link and the Clock (R141). -/

namespace Sys2Proof.Machine

/-! ### Outcomes and runs -/

/-- The next state, if there is one. -/
def nextOf : Host.Outcome State Fault Refusal → Option State
  | .next t => some t
  | .fault _ => none
  | .refused _ => none

/-- A function applied to the next state, if there is one. -/
def mapNext (f : State → State) : Host.Outcome State Fault Refusal → Host.Outcome State Fault Refusal
  | .next t => .next (f t)
  | .fault r => .fault r
  | .refused r => .refused r

/-- `n` steps, stopping at the first stop. -/
def run : Nat → State → Host.Outcome State Fault Refusal
  | 0, s => .next s
  | n + 1, s =>
    match step s with
    | .next t => run n t
    | .fault r => .fault r
    | .refused r => .refused r

/-- The state with other words in the six argument CSRs (R23). -/
def State.withArgs (addr : Byte) (wdata : Word) (offset : BitVec 16) (wanted maxTime cap : Word) (s : State) :
    State :=
  { s with spe := { s.spe with
      addr := addr, wdata := wdata, offset := offset, wanted := wanted, maxTime := maxTime
      discardCap := cap } }

/-! ### The invariant -/

/-- The reply type a command waits for (R62, R63). -/
def replyType (op : BitVec 4) : Option Byte :=
  match op.toNat with
  | 1 => some tyWriteAck
  | 2 => some tyReadReply
  | 3 => some tyBufReply
  | 4 => some tyStreamPush
  | 5 => some tyReadReply
  | _ => none

/-- The request frame of the latched command (R62); READ_STREAM sends none. -/
def requestOf (cfg : Config) (p : Spe) : Option (List Byte) :=
  match p.lOp.toNat with
  | 1 => some (requestBytes cfg.reqCmdByte tyWriteReq cbWrite ([p.lAddr] ++ le32 p.lWdata))
  | 2 => some (requestBytes cfg.reqCmdByte tyReadReq cbRead [p.lAddr])
  | 3 => some (requestBytes cfg.reqCmdByte tyBufReq cbBuf ([bufSubId] ++ le16 p.lOffset))
  | 5 => some (requestBytes cfg.reqCmdByte tyReadReq cbRead [statusAddr])
  | _ => none

/-- What holds of the SPE at reset and after every step. -/
structure Spe.Inv (cfg : Config) (p : Spe) : Prop where
  /-- CMD reads the opcode that was latched last (R20, R27). -/
  cmdLatched : p.cmdOp = p.lOp
  /-- A running command is one of the five, and waits for its own reply type (R62, R112). -/
  replyKnown : p.engine ≠ .idle → replyType p.lOp = some p.expType
  /-- A link request is pending only on an open transport (R76, R77, R87). -/
  linkOpen : p.engine.pending = true → p.linkEn = true
  /-- The frame being written is that of the latched command and operands (R62). -/
  framePending : p.engine = .send → requestOf cfg p = some p.pendingFrame
  /-- Only POLL_STATUS sleeps, for 1 to 100 more ticks (R28, R101). -/
  sleepBound : p.engine = .sleep → p.lOp = 5 ∧ 1 ≤ p.sleepCnt.toNat ∧ p.sleepCnt.toNat ≤ 100
  /-- While a command runs DONE and ERR are clear and there is no result yet (R75, R113, R133). -/
  runningClean : p.engine ≠ .idle →
    p.done = false ∧ p.errCode = .noError ∧ p.tmoSrc = false ∧ p.result = 0 ∧ p.plen = 0
  /-- Only POLL_STATUS counts reads and ticks (R24, R101). -/
  pollOnly : p.lOp ≠ 5 → p.pollCnt = 0 ∧ p.elapsed = 0
  /-- TMO_SRC is 0 unless the code is TIMEOUT (R22). -/
  tmoSrcTimeout : p.tmoSrc = true → p.errCode = .timeout ∧ p.lOp = 5
  /-- MODULE_ERROR carries a raw status with an error bit (R107, R111). -/
  moduleStatus : p.errCode = .moduleError → p.lOp = 5 ∧ hasErrorBit p.result = true
  /-- ILLEGAL_CMD is the end of a reserved opcode (R111, R112). -/
  illegalReserved : p.errCode = .illegalCmd → replyType p.cmdOp = none
  /-- The bytes the PAYLOAD window shows are in OUT, and each buffer holds at most 65535 bytes (R25, R29). -/
  outHeld : p.plen.toNat ≤ p.out.length ∧ p.out.length ≤ 65535 ∧ p.rxbuf.length ≤ 65535
  /-- The request buffer holds at most 12 bytes (R29). -/
  txHeld : p.txbuf.length ≤ 12
  /-- A transaction has discarded at most the cap (R82). -/
  capHeld : p.lCap ≠ 0 → p.discardCnt ≤ p.lCap
  /-- LAST_HDR is the header whose body is being read (R79). -/
  headerShown : p.engine = .rxBody → p.lastHdr = headerWord p.hdrTag p.hdrLen p.hdrType

/-- The invariant of the machine: that of its SPE. -/
abbrev State.Inv (s : State) : Prop := s.spe.Inv s.cfg

/-! ### Traces and fairness (R9, R141) -/

/-- An endless run in which the agents move: event `ev n` is taken in state `st n` and leads to `st (n + 1)`. -/
def IsTrace (ev : Nat → Event) (st : Nat → State) : Prop := ∀ n, takeEvent (ev n) (st n) = .next (st (n + 1))

/-- Weak fairness of the Link: a request that stays pending is answered (R141). -/
def FairLink (ev : Nat → Event) (st : Nat → State) : Prop :=
  ∀ n, (∀ m, n ≤ m → (st m).spe.engine.pending = true) → ∃ m, n ≤ m ∧ ∃ ans, ev m = .link ans

/-- Weak fairness of the Clock: a tick comes again and again (R141). -/
def FairClock (ev : Nat → Event) : Prop := ∀ n, ∃ m, n ≤ m ∧ ev m = .tick

/-! ### Frames and polls as lists of events -/

/-- The two answers by which the Link delivers one frame (R83). -/
def frameEvents (tag type : Byte) (p : List Byte) (term : Byte) : List Event :=
  [.link (.rdData ([tag] ++ le16 (BitVec.ofNat 16 p.length) ++ [type])), .link (.rdData (p ++ [term]))]

/-- One status read of a poll: the status value it returns, and the ticks that fall while it is in flight, in SEND,
in RX_HDR and in RX_BODY (R108). -/
structure PollRead where
  status : Word
  inSend : Nat
  inHeader : Nat
  inBody : Nat
  deriving DecidableEq, Repr

/-- `d_k`: the ticks in flight (R108). -/
def PollRead.ticks (r : PollRead) : Nat := r.inSend + r.inHeader + r.inBody

/-- The events of one status read (R100, R108). -/
def PollRead.events (r : PollRead) : List Event :=
  List.replicate r.inSend .tick ++ [.link .wrOk] ++ List.replicate r.inHeader .tick ++
    [.link (.rdData [0xCC, 0x05, 0x00, 0xF6])] ++ List.replicate r.inBody .tick ++
    [.link (.rdData ([statusAddr] ++ le32 r.status ++ [termByte]))]

/-- Status reads, each followed by a sleep but the last (R108). -/
def pollEvents : List PollRead → List Event
  | [] => []
  | [r] => r.events
  | r :: rest => r.events ++ List.replicate 100 .tick ++ pollEvents rest

/-- `d_1 + ... + d_k + 100 (k - 1)` (R108). -/
def pollTime : List PollRead → Nat
  | [] => 0
  | [r] => r.ticks
  | r :: rest => r.ticks + 100 + pollTime rest

end Sys2Proof.Machine
end

