-- ==== Sys2Proof/Certificates/Slice0/Obligations.lean ====
section
/-! DEFINITION. The statements for the provers. Each says its rule of spec/ in its docstring. -/

open Sys2Proof Sys2Proof.Machine

/-! ### Codes -/

/-- Words and frames written out from the tables of R55, R62 and R63 decode to their rows. -/
def Obligations.SpecWordsDecode : Prop :=
  decode (.cmdWord 0x00000001) = .ok (.writeReg 0) ∧
  decode (.cmdWord 0x00000012) = .ok (.readReg 1) ∧
  decode (.cmdWord 0x00000003) = .ok (.readBuf 0) ∧
  decode (.cmdWord 0x00000004) = .ok (.readStream 0) ∧
  decode (.cmdWord 0x00000005) = .ok (.pollStatus 0) ∧
  decode (.cmdWord 0x00000007) = .ok (.illegal67 1 0) ∧
  decode (.cmdWord 0x0000000F) = .ok (.illegal8F 7 0) ∧
  decode (.txFrame [0xCC, 0x06, 0x00, 0xF9, 0x05, 0x23, 0xE8, 0x03, 0x00, 0x00, 0xCD]) = .ok (.reqWrite 0x23 1000) ∧
  decode (.txFrame [0xCC, 0x02, 0x00, 0xF8, 0x01, 0x06, 0xCD]) = .ok (.reqRead 0x06) ∧
  decode (.txFrame [0xCC, 0x03, 0x00, 0xFA, 0xE8, 0x34, 0x12, 0xCD]) = .ok (.reqBufAlt 0x1234) ∧
  decode (.rxFrame [0xAA, 0x05, 0x00, 0xF6, 0x10, 0x39, 0x30, 0x00, 0x00, 0xCD]) =
    .ok (.rspReadReply 0xAA [0x10, 0x39, 0x30, 0x00, 0x00] 0xCD) ∧
  decode (.rxFrame [0xCC, 0x02, 0x00, 0xFE, 0x11, 0x22, 0xCC]) = .ok (.rspStreamPush 0xCC [0x11, 0x22] 0xCC)

/-- Decoding the code of a well-formed instruction gives the instruction back, with every operand. The two macros
that are another name of a POLL (R67) are left to `WaitMacrosArePolls`. -/
def Obligations.DecodeOfEncode : Prop := ∀ i : Instr, i.wf = true → i ≠ .waitStart → (∀ t, i ≠ .waitData t) →
  decode (encode i) = .ok i

/-- Encoding what was decoded gives the code back, and what is decoded is well-formed: no bit of a command word, of
a frame or of a macro's lines is dropped, and no two codes decode to one instruction. -/
def Obligations.EncodeOfDecode : Prop := ∀ (c : Code) (i : Instr), decode c = .ok i → encode i = c ∧ i.wf = true

/-- WAIT_START and WAIT_DATA t are POLL 0x3, 3000 and POLL 0x100, t: the same lines and the same meaning (R67,
R109, R110). -/
def Obligations.WaitMacrosArePolls : Prop := ∀ (t : Word) (s : State),
  encode .waitStart = encode (.doPoll 0x3 3000) ∧ exec .waitStart s = exec (.doPoll 0x3 3000) s ∧
  encode (.waitData t) = encode (.doPoll 0x100 t) ∧ exec (.waitData t) s = exec (.doPoll 0x100 t) s

/-- Bits 31:4 of a command word have no effect (R54). -/
def Obligations.CommandWordHighBitsIgnored : Prop := ∀ (v : Word) (s : State),
  exec (decodeCmd v) s = exec (decodeCmd (v &&& 0xF)) s

/-- The framer's request frames and their round trip (R69, R72), with a command byte and without one: a body of at
most 65534 bytes has the frame of R69, a longer one has none, and parsing a frame gives back the command byte and
the body. -/
def Obligations.FramerRoundTrip : Prop := ∀ (type cmd : Byte) (body f : List Byte),
  (body.length ≤ 65534 →
    encodeRequest true type cmd body =
      some ([0xCC] ++ le16 (BitVec.ofNat 16 (1 + body.length)) ++ [type, cmd] ++ body ++ [0xCD]) ∧
    encodeRequest false type cmd body =
      some ([0xCC] ++ le16 (BitVec.ofNat 16 body.length) ++ [type] ++ body ++ [0xCD])) ∧
  (65534 < body.length → ∀ cb, encodeRequest cb type cmd body = none) ∧
  (encodeRequest true type cmd body = some f →
    decodeHeader (f.take 4) = some (0xCC, BitVec.ofNat 16 (1 + body.length), type) ∧
    decodeBody (BitVec.ofNat 16 (1 + body.length)) (f.drop 4) = some ([cmd] ++ body)) ∧
  (encodeRequest false type cmd body = some f →
    decodeHeader (f.take 4) = some (0xCC, BitVec.ofNat 16 body.length, type) ∧
    decodeBody (BitVec.ofNat 16 body.length) (f.drop 4) = some body)

/-! ### The step -/

/-- A step runs the instruction decoded at the head of the inbox, on the state with that event taken off: a word
written to CMD (R75), the pending request frame taken by the Link, the frame completed by a body, or the instruction
a host line names (R66). That the next event stands at the head of the inbox is the model's choice (log entry 1).
That `WR_OK` and a completed body run the exec of the frame's row is the model's reading of the table's wire rows
(DEDUCED, log entry 6): R78 and R80 name no instruction. -/
def Obligations.StepRunsTheDecodedInstruction : Prop := ∀ (s : State) (rest : List Event),
  (∀ a v i, s.inbox = .memWrite a v :: rest → csrAt a = some .cmd → decode (.cmdWord v) = .ok i →
    step s = exec i { s with inbox := rest }) ∧
  (∀ i, s.inbox = .link .wrOk :: rest → s.spe.engine = .send → decode (.txFrame s.spe.pendingFrame) = .ok i →
    step s = exec i { s with inbox := rest }) ∧
  (∀ b i, s.inbox = .link (.rdData b) :: rest → s.spe.engine = .rxBody → b.length = s.spe.hdrLen.toNat + 1 →
    decode (.rxFrame ([s.spe.hdrTag] ++ le16 s.spe.hdrLen ++ [s.spe.hdrType] ++ b)) = .ok i →
    step s = exec i { s with inbox := rest }) ∧
  (∀ i ls, s.inbox = .hostLine :: rest → s.hostProg = .run i :: ls → isHostLine i = true →
    step s = exec i { s with inbox := rest, hostProg := ls })

/-- A table word that decodes is run by the very next step, which answers a next state. Where the word is placed is
the model's choice (log entries 3 and 11). -/
def Obligations.PlacedWordRuns : Prop := ∀ (s : State) (nbits w : Nat) (i : Instr),
  decodeTableWord nbits w = some i →
  ∃ q t, q.inbox = s.inbox ∧ step (s.withFetchWord nbits w) = exec i q ∧ exec i q = .next t

/-- Which events are enabled where (R74). A host line is the model's own form of a host access and is left out. -/
def Obligations.EventsEnabledAsInTheTable : Prop := ∀ (s : State),
  (∀ a v, ∃ t, takeEvent (.memWrite a v) s = .next t) ∧
  (∀ a, ∃ t, takeEvent (.memRead a) s = .next t) ∧
  (∃ t, takeEvent .tick s = .next t) ∧
  (∃ t, takeEvent .reset s = .next t) ∧
  ((∃ t, takeEvent (.link .wrOk) s = .next t) ↔ s.spe.engine = .send) ∧
  ((∃ t, takeEvent (.link .wrIoErr) s = .next t) ↔ s.spe.engine = .send) ∧
  (∀ b, (∃ t, takeEvent (.link (.rdData b)) s = .next t) ↔
    (s.spe.engine = .rxHdr ∧ b.length = 4) ∨ (s.spe.engine = .rxBody ∧ b.length = s.spe.hdrLen.toNat + 1)) ∧
  ((∃ t, takeEvent (.link .rdTimeout) s = .next t) ↔ s.spe.engine = .rxHdr ∨ s.spe.engine = .rxBody) ∧
  ((∃ t, takeEvent (.link .rdIoErr) s = .next t) ↔ s.spe.engine = .rxHdr ∨ s.spe.engine = .rxBody)

/-- A wire frame that is not the one pending is refused by name, since there is no such event (R74): a request frame
in every state in which it is not the pending LinkWrite, and a reply frame in every state in which no body of a
header with its tag, type and length is awaited. The refusal is the model's choice (log entry 2), and so are the
wire rows' steps (DEDUCED, log entry 6). -/
def Obligations.WireRowsRefusedUnlessPending : Prop := ∀ (s : State),
  (∀ i f, encode i = .txFrame f → ¬ (s.spe.engine = .send ∧ s.spe.pendingFrame = f) →
    exec i s = .refused .eventNotEnabled) ∧
  ∀ (tag type : Byte) (p : List Byte) (term : Byte),
    ¬ (s.spe.engine = .rxBody ∧ s.spe.hdrTag = tag ∧ s.spe.hdrType = type ∧ s.spe.hdrLen.toNat = p.length) →
    (type = 0xF5 → exec (.rspWriteAck tag p term) s = .refused .eventNotEnabled) ∧
    (type = 0xF6 → exec (.rspReadReply tag p term) s = .refused .eventNotEnabled) ∧
    (type = 0xF7 → exec (.rspBufReply tag p term) s = .refused .eventNotEnabled) ∧
    (type = 0xFE → exec (.rspStreamPush tag p term) s = .refused .eventNotEnabled)

/-! ### Host commands -/

/-- WRITE_REG's start (R89): the operands are latched, the write-request frame of R62 is pending and 0xF5 is awaited; on a closed transport the command ends with IO_ERROR. While busy the write only sets OVR (R75). -/
def Obligations.WriteRegStarts : Prop := ∀ (ign : BitVec 28) (s : State),
  (s.spe.engine ≠ .idle → exec (.writeReg ign) s = .next { s with spe := { s.spe with ovr := true } }) ∧
  (s.spe.engine = .idle → s.spe.linkEn = true → exec (.writeReg ign) s = .next { s with spe := { s.spe with
      cmdOp := 1, lOp := 1
      lAddr := s.spe.addr, lWdata := s.spe.wdata, lOffset := s.spe.offset, lWanted := s.spe.wanted
      lMaxTime := s.spe.maxTime, lCap := s.spe.discardCap
      tmoSrc := false, result := 0, plen := 0, discardCnt := 0, pollCnt := 0, elapsed := 0
      done := false, errCode := .noError
      txbuf := if s.cfg.reqCmdByte then [0xCC, 0x06, 0x00, 0xF9, 0x05, s.spe.addr] ++ le32 s.spe.wdata ++ [0xCD] else [0xCC, 0x05, 0x00, 0xF9, s.spe.addr] ++ le32 s.spe.wdata ++ [0xCD]
      txlen := if s.cfg.reqCmdByte then 11 else 10
      expType := 0xF5, engine := .send } }) ∧
  (s.spe.engine = .idle → s.spe.linkEn = false → exec (.writeReg ign) s = .next { s with spe := { s.spe with
      cmdOp := 1, lOp := 1
      lAddr := s.spe.addr, lWdata := s.spe.wdata, lOffset := s.spe.offset, lWanted := s.spe.wanted
      lMaxTime := s.spe.maxTime, lCap := s.spe.discardCap
      tmoSrc := false, result := 0, plen := 0, discardCnt := 0, pollCnt := 0, elapsed := 0
      done := true, errCode := .ioError, engine := .idle } })

/-- READ_REG's start (R91): the read-request frame of R62 is pending and 0xF6 is awaited; on a closed transport the command ends with IO_ERROR. While busy the write only sets OVR (R75). -/
def Obligations.ReadRegStarts : Prop := ∀ (ign : BitVec 28) (s : State),
  (s.spe.engine ≠ .idle → exec (.readReg ign) s = .next { s with spe := { s.spe with ovr := true } }) ∧
  (s.spe.engine = .idle → s.spe.linkEn = true → exec (.readReg ign) s = .next { s with spe := { s.spe with
      cmdOp := 2, lOp := 2
      lAddr := s.spe.addr, lWdata := s.spe.wdata, lOffset := s.spe.offset, lWanted := s.spe.wanted
      lMaxTime := s.spe.maxTime, lCap := s.spe.discardCap
      tmoSrc := false, result := 0, plen := 0, discardCnt := 0, pollCnt := 0, elapsed := 0
      done := false, errCode := .noError
      txbuf := if s.cfg.reqCmdByte then [0xCC, 0x02, 0x00, 0xF8, 0x01, s.spe.addr, 0xCD] else [0xCC, 0x01, 0x00, 0xF8, s.spe.addr, 0xCD]
      txlen := if s.cfg.reqCmdByte then 7 else 6
      expType := 0xF6, engine := .send } }) ∧
  (s.spe.engine = .idle → s.spe.linkEn = false → exec (.readReg ign) s = .next { s with spe := { s.spe with
      cmdOp := 2, lOp := 2
      lAddr := s.spe.addr, lWdata := s.spe.wdata, lOffset := s.spe.offset, lWanted := s.spe.wanted
      lMaxTime := s.spe.maxTime, lCap := s.spe.discardCap
      tmoSrc := false, result := 0, plen := 0, discardCnt := 0, pollCnt := 0, elapsed := 0
      done := true, errCode := .ioError, engine := .idle } })

/-- READ_BUF's start (R93): the buffer-read frame of R62 is pending and 0xF7 is awaited; on a closed transport the command ends with IO_ERROR. While busy the write only sets OVR (R75). -/
def Obligations.ReadBufStarts : Prop := ∀ (ign : BitVec 28) (s : State),
  (s.spe.engine ≠ .idle → exec (.readBuf ign) s = .next { s with spe := { s.spe with ovr := true } }) ∧
  (s.spe.engine = .idle → s.spe.linkEn = true → exec (.readBuf ign) s = .next { s with spe := { s.spe with
      cmdOp := 3, lOp := 3
      lAddr := s.spe.addr, lWdata := s.spe.wdata, lOffset := s.spe.offset, lWanted := s.spe.wanted
      lMaxTime := s.spe.maxTime, lCap := s.spe.discardCap
      tmoSrc := false, result := 0, plen := 0, discardCnt := 0, pollCnt := 0, elapsed := 0
      done := false, errCode := .noError
      txbuf := if s.cfg.reqCmdByte then [0xCC, 0x04, 0x00, 0xFA, 0x03, 0xE8] ++ le16 s.spe.offset ++ [0xCD] else [0xCC, 0x03, 0x00, 0xFA, 0xE8] ++ le16 s.spe.offset ++ [0xCD]
      txlen := if s.cfg.reqCmdByte then 9 else 8
      expType := 0xF7, engine := .send } }) ∧
  (s.spe.engine = .idle → s.spe.linkEn = false → exec (.readBuf ign) s = .next { s with spe := { s.spe with
      cmdOp := 3, lOp := 3
      lAddr := s.spe.addr, lWdata := s.spe.wdata, lOffset := s.spe.offset, lWanted := s.spe.wanted
      lMaxTime := s.spe.maxTime, lCap := s.spe.discardCap
      tmoSrc := false, result := 0, plen := 0, discardCnt := 0, pollCnt := 0, elapsed := 0
      done := true, errCode := .ioError, engine := .idle } })

/-- READ_STREAM's start (R95): no request is sent, a header is awaited with type 0xFE; on a closed transport the command ends with IO_ERROR. While busy the write only sets OVR (R75). -/
def Obligations.ReadStreamStarts : Prop := ∀ (ign : BitVec 28) (s : State),
  (s.spe.engine ≠ .idle → exec (.readStream ign) s = .next { s with spe := { s.spe with ovr := true } }) ∧
  (s.spe.engine = .idle → s.spe.linkEn = true → exec (.readStream ign) s = .next { s with spe := { s.spe with
      cmdOp := 4, lOp := 4
      lAddr := s.spe.addr, lWdata := s.spe.wdata, lOffset := s.spe.offset, lWanted := s.spe.wanted
      lMaxTime := s.spe.maxTime, lCap := s.spe.discardCap
      tmoSrc := false, result := 0, plen := 0, discardCnt := 0, pollCnt := 0, elapsed := 0
      done := false, errCode := .noError
      expType := 0xFE, engine := .rxHdr } }) ∧
  (s.spe.engine = .idle → s.spe.linkEn = false → exec (.readStream ign) s = .next { s with spe := { s.spe with
      cmdOp := 4, lOp := 4
      lAddr := s.spe.addr, lWdata := s.spe.wdata, lOffset := s.spe.offset, lWanted := s.spe.wanted
      lMaxTime := s.spe.maxTime, lCap := s.spe.discardCap
      tmoSrc := false, result := 0, plen := 0, discardCnt := 0, pollCnt := 0, elapsed := 0
      done := true, errCode := .ioError, engine := .idle } })

/-- POLL_STATUS's start (R99): the read request of address 0x06 is pending, whatever ADDR holds, and 0xF6 is awaited; on a closed transport the command ends with IO_ERROR. While busy the write only sets OVR (R75). -/
def Obligations.PollStatusStarts : Prop := ∀ (ign : BitVec 28) (s : State),
  (s.spe.engine ≠ .idle → exec (.pollStatus ign) s = .next { s with spe := { s.spe with ovr := true } }) ∧
  (s.spe.engine = .idle → s.spe.linkEn = true → exec (.pollStatus ign) s = .next { s with spe := { s.spe with
      cmdOp := 5, lOp := 5
      lAddr := s.spe.addr, lWdata := s.spe.wdata, lOffset := s.spe.offset, lWanted := s.spe.wanted
      lMaxTime := s.spe.maxTime, lCap := s.spe.discardCap
      tmoSrc := false, result := 0, plen := 0, discardCnt := 0, pollCnt := 0, elapsed := 0
      done := false, errCode := .noError
      txbuf := if s.cfg.reqCmdByte then [0xCC, 0x02, 0x00, 0xF8, 0x01, 0x06, 0xCD] else [0xCC, 0x01, 0x00, 0xF8, 0x06, 0xCD]
      txlen := if s.cfg.reqCmdByte then 7 else 6
      expType := 0xF6, engine := .send } }) ∧
  (s.spe.engine = .idle → s.spe.linkEn = false → exec (.pollStatus ign) s = .next { s with spe := { s.spe with
      cmdOp := 5, lOp := 5
      lAddr := s.spe.addr, lWdata := s.spe.wdata, lOffset := s.spe.offset, lWanted := s.spe.wanted
      lMaxTime := s.spe.maxTime, lCap := s.spe.discardCap
      tmoSrc := false, result := 0, plen := 0, discardCnt := 0, pollCnt := 0, elapsed := 0
      done := true, errCode := .ioError, engine := .idle } })

/-- A reserved opcode ends in the step that accepts it with ERR.CODE = 7, makes no link request and is kept in
CMD.OPCODE (R112); while busy the write only sets OVR (R75). -/
def Obligations.ReservedOpcodesEndIllegal : Prop := ∀ (lo1 : BitVec 1) (lo3 : BitVec 3) (ign : BitVec 28) (s : State),
  ErrKind.illegalCmd.code = 7 ∧
  (s.spe.engine = .idle →
    exec (.illegal0 ign) s = .next { s with spe := { s.spe with
      cmdOp := 0, lOp := 0
      lAddr := s.spe.addr, lWdata := s.spe.wdata, lOffset := s.spe.offset, lWanted := s.spe.wanted
      lMaxTime := s.spe.maxTime, lCap := s.spe.discardCap
      tmoSrc := false, result := 0, plen := 0, discardCnt := 0, pollCnt := 0, elapsed := 0
      done := true, errCode := .illegalCmd, engine := .idle } }) ∧
  (s.spe.engine = .idle →
    exec (.illegal67 lo1 ign) s = .next { s with spe := { s.spe with
      cmdOp := 0b011#3 ++ lo1, lOp := 0b011#3 ++ lo1
      lAddr := s.spe.addr, lWdata := s.spe.wdata, lOffset := s.spe.offset, lWanted := s.spe.wanted
      lMaxTime := s.spe.maxTime, lCap := s.spe.discardCap
      tmoSrc := false, result := 0, plen := 0, discardCnt := 0, pollCnt := 0, elapsed := 0
      done := true, errCode := .illegalCmd, engine := .idle } }) ∧
  (s.spe.engine = .idle →
    exec (.illegal8F lo3 ign) s = .next { s with spe := { s.spe with
      cmdOp := 0b1#1 ++ lo3, lOp := 0b1#1 ++ lo3
      lAddr := s.spe.addr, lWdata := s.spe.wdata, lOffset := s.spe.offset, lWanted := s.spe.wanted
      lMaxTime := s.spe.maxTime, lCap := s.spe.discardCap
      tmoSrc := false, result := 0, plen := 0, discardCnt := 0, pollCnt := 0, elapsed := 0
      done := true, errCode := .illegalCmd, engine := .idle } }) ∧
  (s.spe.engine ≠ .idle →
    exec (.illegal0 ign) s = .next { s with spe := { s.spe with ovr := true } } ∧
    exec (.illegal67 lo1 ign) s = .next { s with spe := { s.spe with ovr := true } } ∧
    exec (.illegal8F lo3 ign) s = .next { s with spe := { s.spe with ovr := true } })

/-- A command word written while busy is dropped and sets OVR, whichever word it is (R132). -/
def Obligations.CommandWhileBusyIsDropped : Prop := ∀ (s : State) (rest : List Event) (a v : Word),
  s.inbox = .memWrite a v :: rest → csrAt a = some .cmd → s.spe.busy = true →
  step s = .next { s with inbox := rest, spe := { s.spe with ovr := true } }

/-! ### Link steps -/

/-- The writing of a request frame (R78): for each of the six frames of R62, if it is the pending one it leaves
whole and a header is awaited; and for any pending frame `WR_OK` does this and `WR_IOERR` ends the command with
IO_ERROR. That a request row is this write step is the model's reading (DEDUCED, log entry 6). That the record
`linkOut` grows by the frame on `WR_OK` and by nothing on `WR_IOERR` is the model's choice (log entry 8). -/
def Obligations.RequestFrameIsWritten : Prop := ∀ (a : Byte) (v : Word) (o : BitVec 16) (s : State),
  s.spe.engine = .send →
  (s.spe.pendingFrame = [0xCC, 0x06, 0x00, 0xF9, 0x05, a] ++ le32 v ++ [0xCD] →
    exec (.reqWrite a v) s = .next { s with
      spe := { s.spe with engine := .rxHdr }
      linkOut := s.linkOut ++ ([0xCC, 0x06, 0x00, 0xF9, 0x05, a] ++ le32 v ++ [0xCD]) }) ∧
  (s.spe.pendingFrame = [0xCC, 0x02, 0x00, 0xF8, 0x01, a, 0xCD] →
    exec (.reqRead a) s = .next { s with
      spe := { s.spe with engine := .rxHdr }
      linkOut := s.linkOut ++ [0xCC, 0x02, 0x00, 0xF8, 0x01, a, 0xCD] }) ∧
  (s.spe.pendingFrame = [0xCC, 0x04, 0x00, 0xFA, 0x03, 0xE8] ++ le16 o ++ [0xCD] →
    exec (.reqBuf o) s = .next { s with
      spe := { s.spe with engine := .rxHdr }
      linkOut := s.linkOut ++ ([0xCC, 0x04, 0x00, 0xFA, 0x03, 0xE8] ++ le16 o ++ [0xCD]) }) ∧
  (s.spe.pendingFrame = [0xCC, 0x05, 0x00, 0xF9, a] ++ le32 v ++ [0xCD] →
    exec (.reqWriteAlt a v) s = .next { s with
      spe := { s.spe with engine := .rxHdr }
      linkOut := s.linkOut ++ ([0xCC, 0x05, 0x00, 0xF9, a] ++ le32 v ++ [0xCD]) }) ∧
  (s.spe.pendingFrame = [0xCC, 0x01, 0x00, 0xF8, a, 0xCD] →
    exec (.reqReadAlt a) s = .next { s with
      spe := { s.spe with engine := .rxHdr }
      linkOut := s.linkOut ++ [0xCC, 0x01, 0x00, 0xF8, a, 0xCD] }) ∧
  (s.spe.pendingFrame = [0xCC, 0x03, 0x00, 0xFA, 0xE8] ++ le16 o ++ [0xCD] →
    exec (.reqBufAlt o) s = .next { s with
      spe := { s.spe with engine := .rxHdr }
      linkOut := s.linkOut ++ ([0xCC, 0x03, 0x00, 0xFA, 0xE8] ++ le16 o ++ [0xCD]) }) ∧
  takeEvent (.link .wrOk) s = .next { s with
    spe := { s.spe with engine := .rxHdr }, linkOut := s.linkOut ++ s.spe.pendingFrame } ∧
  takeEvent (.link .wrIoErr) s = .next { s with
    spe := { s.spe with errCode := .ioError, engine := .idle, done := true } }

/-- The header step (R79): four bytes are decoded into HDR_* and LAST_HDR whatever they are, and the body is
awaited; a timeout and an I/O error end the command. -/
def Obligations.HeaderStep : Prop := ∀ (tag l0 l1 type : Byte) (s : State), s.spe.engine = .rxHdr →
  takeEvent (.link (.rdData [tag, l0, l1, type])) s = .next { s with spe := { s.spe with
    hdrTag := tag, hdrLen := u16le l0 l1, hdrType := type
    lastHdr := tag.setWidth 32 ||| (type.setWidth 32 <<< 8) ||| ((u16le l0 l1).setWidth 32 <<< 16)
    engine := .rxBody } } ∧
  takeEvent (.link .rdTimeout) s = .next { s with spe := { s.spe with
    tmoSrc := false, errCode := .timeout, engine := .idle, done := true } } ∧
  takeEvent (.link .rdIoErr) s = .next { s with spe := { s.spe with
    errCode := .ioError, engine := .idle, done := true } }

/-- The body step (R80), for a frame of any type: the terminator first, then the type, then the finish rule of the
running command or the discard rule; a timeout and an I/O error end the command. -/
def Obligations.BodyStep : Prop := ∀ (p : List Byte) (term : Byte) (s : State), s.spe.engine = .rxBody →
  p.length = s.spe.hdrLen.toNat →
  (term ≠ 0xCD → takeEvent (.link (.rdData (p ++ [term]))) s = .next { s with spe := { s.spe with
    errCode := .framing, engine := .idle, done := true } }) ∧
  (s.spe.hdrType = s.spe.expType →
    takeEvent (.link (.rdData (p ++ [0xCD]))) s =
      .next { s with spe := finish p { s.spe with rxbuf := p } }) ∧
  (s.spe.hdrType ≠ s.spe.expType →
    takeEvent (.link (.rdData (p ++ [0xCD]))) s =
      .next { s with spe := foreign { s.spe with rxbuf := p } }) ∧
  takeEvent (.link .rdTimeout) s = .next { s with spe := { s.spe with
    tmoSrc := false, errCode := .timeout, engine := .idle, done := true } } ∧
  takeEvent (.link .rdIoErr) s = .next { s with spe := { s.spe with
    errCode := .ioError, engine := .idle, done := true } }

/-- A write-ack that WRITE_REG awaits (R90): the echoed address decides between OK and PROTOCOL_MISMATCH; bytes
after it are ignored and an empty payload is a mismatch. -/
def Obligations.WriteAckFinishesWriteReg : Prop := ∀ (tag : Byte) (p : List Byte) (s : State),
  s.spe.engine = .rxBody → s.spe.hdrTag = tag → s.spe.hdrType = 0xF5 → s.spe.hdrLen.toNat = p.length →
  s.spe.lOp = 1 → s.spe.expType = 0xF5 →
  exec (.rspWriteAck tag p 0xCD) s = .next { s with spe := { s.spe with
    rxbuf := p, engine := .idle, done := true
    errCode := if p.head? = some s.spe.lAddr then .noError else .protocolMismatch } }

/-- A read-reply that READ_REG awaits (R92): with the address echoed and at least 5 bytes RESULT is bytes 1 to 4,
little-endian; else PROTOCOL_MISMATCH and no result. -/
def Obligations.ReadReplyFinishesReadReg : Prop := ∀ (tag : Byte) (p : List Byte) (s : State),
  s.spe.engine = .rxBody → s.spe.hdrTag = tag → s.spe.hdrType = 0xF6 → s.spe.hdrLen.toNat = p.length →
  s.spe.lOp = 2 → s.spe.expType = 0xF6 →
  exec (.rspReadReply tag p 0xCD) s = .next { s with
    spe := if p.head? = some s.spe.lAddr ∧ 5 ≤ p.length then { s.spe with
      rxbuf := p, engine := .idle, done := true, errCode := .noError
      result := u32le (p.getD 1 0) (p.getD 2 0) (p.getD 3 0) (p.getD 4 0) }
    else { s.spe with rxbuf := p, engine := .idle, done := true, errCode := .protocolMismatch } }

/-- A buffer-reply that READ_BUF awaits (R94): with 0xE8 echoed the other bytes are OUT, verbatim, and PLEN their
number; else PROTOCOL_MISMATCH. -/
def Obligations.BufReplyFinishesReadBuf : Prop := ∀ (tag : Byte) (p : List Byte) (s : State),
  s.spe.engine = .rxBody → s.spe.hdrTag = tag → s.spe.hdrType = 0xF7 → s.spe.hdrLen.toNat = p.length →
  s.spe.lOp = 3 → s.spe.expType = 0xF7 →
  exec (.rspBufReply tag p 0xCD) s = .next { s with
    spe := if p.head? = some 0xE8 then { s.spe with
      rxbuf := p, engine := .idle, done := true, errCode := .noError
      out := p.tail, plen := BitVec.ofNat 16 (p.length - 1) }
    else { s.spe with rxbuf := p, engine := .idle, done := true, errCode := .protocolMismatch } }

/-- A stream-push that READ_STREAM awaits (R96): the whole payload is OUT and PLEN its length; nothing is checked. -/
def Obligations.StreamPushFinishesReadStream : Prop := ∀ (tag : Byte) (p : List Byte) (s : State),
  s.spe.engine = .rxBody → s.spe.hdrTag = tag → s.spe.hdrType = 0xFE → s.spe.hdrLen.toNat = p.length →
  s.spe.lOp = 4 → s.spe.expType = 0xFE →
  exec (.rspStreamPush tag p 0xCD) s = .next { s with spe := { s.spe with
    rxbuf := p, engine := .idle, done := true, errCode := .noError
    out := p, plen := s.spe.hdrLen } }

/-- A read-reply that POLL_STATUS awaits (R100, R104): echo and length first, then POLL_CNT is counted (saturating),
then timeout, error bits, wanted bits, and else a sleep of 100 ticks. -/
def Obligations.ReadReplyFinishesPoll : Prop := ∀ (tag : Byte) (p : List Byte) (s : State) (w n : Word),
  s.spe.engine = .rxBody → s.spe.hdrTag = tag → s.spe.hdrType = 0xF6 → s.spe.hdrLen.toNat = p.length →
  s.spe.lOp = 5 → s.spe.expType = 0xF6 →
  w = u32le (p.getD 1 0) (p.getD 2 0) (p.getD 3 0) (p.getD 4 0) →
  n = (if s.spe.pollCnt = 0xFFFFFFFF then 0xFFFFFFFF else s.spe.pollCnt + 1) →
  exec (.rspReadReply tag p 0xCD) s = .next { s with
    spe := if ¬ (p.head? = some 0x06 ∧ 5 ≤ p.length) then
      { s.spe with rxbuf := p, engine := .idle, done := true, errCode := .protocolMismatch }
    else if (s.spe.elapsed.toNat : Int) > s.spe.lMaxTime.toInt then
      { s.spe with
        rxbuf := p, pollCnt := n, engine := .idle, done := true, errCode := .timeout, tmoSrc := true }
    else if w &&& 0xFFFF0000 ≠ 0 then
      { s.spe with rxbuf := p, pollCnt := n, engine := .idle, done := true, errCode := .moduleError, result := w }
    else if w &&& s.spe.lWanted = s.spe.lWanted then
      { s.spe with rxbuf := p, pollCnt := n, engine := .idle, done := true, errCode := .noError }
    else { s.spe with rxbuf := p, pollCnt := n, engine := .sleep, sleepCnt := 100 } }

/-- A frame of a known type that is not the awaited one (R81, R82): it is discarded and counted (saturating), unless
the cap of the latched DISCARD_CAP is reached, which ends the command with TOO_MANY_DISCARDED. -/
def Obligations.ForeignFrameIsDiscarded : Prop := ∀ (tag : Byte) (p : List Byte) (s : State) (q : Spe),
  s.spe.engine = .rxBody → s.spe.hdrTag = tag → s.spe.hdrLen.toNat = p.length → s.spe.hdrType ≠ s.spe.expType →
  q = (if s.spe.lCap ≠ 0 ∧ s.spe.lCap ≤ s.spe.discardCnt then
      { s.spe with rxbuf := p, errCode := .tooManyDiscarded, engine := .idle, done := true }
    else { s.spe with
      rxbuf := p, engine := .rxHdr
      discardCnt := if s.spe.discardCnt = 0xFFFFFFFF then 0xFFFFFFFF else s.spe.discardCnt + 1 }) →
  (s.spe.hdrType = 0xF5 → exec (.rspWriteAck tag p 0xCD) s = .next { s with spe := q }) ∧
  (s.spe.hdrType = 0xF6 → exec (.rspReadReply tag p 0xCD) s = .next { s with spe := q }) ∧
  (s.spe.hdrType = 0xF7 → exec (.rspBufReply tag p 0xCD) s = .next { s with spe := q }) ∧
  (s.spe.hdrType = 0xFE → exec (.rspStreamPush tag p 0xCD) s = .next { s with spe := q })

/-- The link delivers N well-terminated foreign frames and then one matching frame, with no cap or a cap of at
least N: after exactly 2 (N + 1) link reads the matching payload is given to the finish rule with DISCARD_CNT = N
(R84). -/
def Obligations.ForeignFramesThenMatch : Prop :=
  ∀ (s : State) (fs : List (Byte × Byte × List Byte)) (tag : Byte) (p : List Byte) (rest : List Event),
  s.spe.engine = .rxHdr → s.spe.discardCnt = 0 →
  (s.spe.lCap = 0 ∨ fs.length ≤ s.spe.lCap.toNat) → fs.length < 2 ^ 32 →
  (∀ f ∈ fs, f.2.1 ≠ s.spe.expType ∧ f.2.2.length ≤ 65535) → p.length ≤ 65535 →
  s.inbox = fs.flatMap (fun f => frameEvents f.1 f.2.1 f.2.2 0xCD) ++ frameEvents tag s.spe.expType p 0xCD ++ rest →
  run (2 * (fs.length + 1)) s = .next { s with
    inbox := rest
    spe := finish p { s.spe with
      engine := .rxBody, discardCnt := BitVec.ofNat 32 fs.length
      hdrTag := tag, hdrLen := BitVec.ofNat 16 p.length, hdrType := s.spe.expType
      lastHdr := headerWord tag (BitVec.ofNat 16 p.length) s.spe.expType, rxbuf := p } }

/-- With no cap, foreign frames keep a command running for as long as they come (R139): after any number of them the
same command still awaits a header. -/
def Obligations.ForeignFramesStarve : Prop := ∀ (s : State) (fs : List (Byte × Byte × List Byte)),
  s.spe.engine = .rxHdr → s.spe.lCap = 0 → (∀ f ∈ fs, f.2.1 ≠ s.spe.expType ∧ f.2.2.length ≤ 65535) →
  s.inbox = fs.flatMap (fun f => frameEvents f.1 f.2.1 f.2.2 0xCD) →
  ∃ t, run (2 * fs.length) s = .next t ∧ t.inbox = [] ∧ t.spe.engine = .rxHdr ∧ t.spe.lOp = s.spe.lOp ∧
    t.spe.done = s.spe.done

/-- A whole READ_REG from IDLE on an open transport: the request leaves, the reply with the echoed address and
`le32(v)` gives RESULT = v (R91, R92; the source's read round trip). -/
def Obligations.ReadRegReturnsTheValue : Prop := ∀ (s : State) (v : Word) (tag : Byte) (rest : List Event),
  s.spe.engine = .idle → s.spe.linkEn = true →
  s.inbox = [.memWrite 0x004 0x2, .link .wrOk] ++ frameEvents tag 0xF6 ([s.spe.addr] ++ le32 v) 0xCD ++ rest →
  ∃ t, run 4 s = .next t ∧ t.inbox = rest ∧ t.spe.result = v ∧ t.spe.errCode = .noError ∧ t.spe.done = true ∧
    t.spe.engine = .idle ∧
    t.linkOut = s.linkOut ++ (if s.cfg.reqCmdByte then [0xCC, 0x02, 0x00, 0xF8, 0x01, s.spe.addr, 0xCD]
      else [0xCC, 0x01, 0x00, 0xF8, s.spe.addr, 0xCD])

/-- Bytes leave the SPE only when the Link takes the pending frame, whole, in SEND, and then a header is
awaited (R37, R49, R78). Bytes are read off the model's record `linkOut`, and that a failed write adds none to it is
the model's choice (log entry 8). -/
def Obligations.BytesLeaveOnlyInSend : Prop := ∀ (e : Event) (s t : State), takeEvent e s = .next t →
  t.linkOut = s.linkOut ∨
  (e = .link .wrOk ∧ s.spe.engine = .send ∧ t.spe.engine = .rxHdr ∧ t.linkOut = s.linkOut ++ s.spe.pendingFrame)

/-! ### The timer and the poller -/

/-- The tick (R101): only a running POLL_STATUS counts it, saturating; in SLEEP the last of its ticks starts the next
status read, which on a closed transport ends with IO_ERROR. -/
def Obligations.TickStep : Prop := ∀ (s : State) (n : Word),
  n = (if s.spe.elapsed = 0xFFFFFFFF then 0xFFFFFFFF else s.spe.elapsed + 1) →
  takeEvent .tick s = .next { s with
    spe := if ¬ (s.spe.engine ≠ .idle ∧ s.spe.lOp = 5) then s.spe
    else if s.spe.engine ≠ .sleep then { s.spe with elapsed := n }
    else if s.spe.sleepCnt ≠ 1 then { s.spe with elapsed := n, sleepCnt := s.spe.sleepCnt - 1 }
    else if s.spe.linkEn then { s.spe with
      elapsed := n, sleepCnt := 0, discardCnt := 0, expType := 0xF6, engine := .send
      txbuf := if s.cfg.reqCmdByte then [0xCC, 0x02, 0x00, 0xF8, 0x01, 0x06, 0xCD]
        else [0xCC, 0x01, 0x00, 0xF8, 0x06, 0xCD]
      txlen := if s.cfg.reqCmdByte then 7 else 6 }
    else { s.spe with
      elapsed := n, sleepCnt := 0, discardCnt := 0, errCode := .ioError, engine := .idle, done := true } }

/-- A sleep lasts exactly 100 ticks (R101): it is still a sleep after fewer, and the 100th starts the next read. -/
def Obligations.SleepLastsHundredTicks : Prop := ∀ (s : State) (k : Nat),
  s.spe.engine = .sleep → s.spe.lOp = 5 → s.spe.sleepCnt = 100 → s.spe.linkEn = true →
  s.inbox = List.replicate 100 .tick → k ≤ 100 →
  ∃ t, run k s = .next t ∧ t.inbox = List.replicate (100 - k) .tick ∧
    (k < 100 → t.spe.engine = .sleep ∧ t.spe.sleepCnt = BitVec.ofNat 8 (100 - k)) ∧
    (k = 100 → t.spe.engine = .send ∧ t.spe.discardCnt = 0)

/-- The corners of MAX_TIME (R103): a negative one times out on every completed read, also the first; a saturated
ELAPSED exceeds every one; and at 0 a read that completed with no tick does not time out. -/
def Obligations.MaxTimeCorners : Prop := ∀ (w : Word) (p : Spe),
  (p.lMaxTime.toInt < 0 → judgeStatus w p = { p with
    errCode := .timeout, tmoSrc := true, engine := .idle, done := true }) ∧
  (p.elapsed = 0xFFFFFFFF → judgeStatus w p = { p with
    errCode := .timeout, tmoSrc := true, engine := .idle, done := true }) ∧
  (p.lMaxTime = 0 → p.elapsed = 0 → (judgeStatus w p).errCode = .timeout → p.errCode = .timeout)

/-- A wanted bit in 31:16 is never satisfied (R105): from a running POLL_STATUS with such a bit no event ends the
command without an error. -/
def Obligations.WantedErrorBitIsNeverSatisfied : Prop := ∀ (e : Event) (s t : State),
  s.spe.engine ≠ .idle → s.spe.lOp = 5 → s.spe.done = false → s.spe.lWanted &&& 0xFFFF0000 ≠ 0 →
  takeEvent e s = .next t → ¬ (t.spe.done = true ∧ t.spe.errCode = .noError)

/-- The status wait times out only when a status read completes (R102): not while a read is in flight, not in a sleep. -/
def Obligations.StatusTimeoutOnlyAtACompletedRead : Prop := ∀ (e : Event) (s t : State),
  takeEvent e s = .next t → s.spe.tmoSrc = false → t.spe.tmoSrc = true →
  s.spe.engine = .rxBody ∧ s.spe.lOp = 5 ∧ (∃ b, e = .link (.rdData b)) ∧
    t.spe.pollCnt = satInc s.spe.pollCnt ∧ t.spe.errCode = .timeout ∧
    (s.spe.elapsed.toNat : Int) > s.spe.lMaxTime.toInt

/-- The timeline of a poll (R108): with `d_k` ticks in flight during read k, read k completes with ELAPSED =
d_1 + ... + d_k + 100 (k - 1). The reads return any statuses that have no error bit and do not meet the wanted bits.
If no read before the last exceeded `max_time`, the last one times out exactly when that value exceeds `max_time`,
and else the poller sleeps. -/
def Obligations.PollTimeline : Prop := ∀ (s : State) (rs : List PollRead) (rest : List Event),
  s.spe.engine = .send → s.spe.lOp = 5 → s.spe.expType = 0xF6 → s.spe.linkEn = true →
  (∀ r ∈ rs, r.status &&& 0xFFFF0000 = 0 ∧ r.status &&& s.spe.lWanted ≠ s.spe.lWanted) →
  s.spe.elapsed = 0 → s.spe.pollCnt = 0 → rs ≠ [] → pollTime rs < 2 ^ 32 →
  (rs.dropLast ≠ [] → (pollTime rs.dropLast : Int) ≤ s.spe.lMaxTime.toInt) →
  s.inbox = pollEvents rs ++ rest →
  ∃ t, run (pollEvents rs).length s = .next t ∧ t.inbox = rest ∧
    t.spe.elapsed.toNat = pollTime rs ∧ t.spe.pollCnt.toNat = rs.length ∧
    (if (pollTime rs : Int) > s.spe.lMaxTime.toInt then
      t.spe.engine = .idle ∧ t.spe.done = true ∧ t.spe.errCode = .timeout ∧ t.spe.tmoSrc = true
    else t.spe.engine = .sleep ∧ t.spe.sleepCnt = 100)

/-- With a fair Link and a fair Clock, every running command with a discard cap ends (R141). -/
def Obligations.FairCommandsEnd : Prop := ∀ (ev : Nat → Event) (st : Nat → State),
  IsTrace ev st → FairLink ev st → FairClock ev → (st 0).Inv → (st 0).spe.lCap ≠ 0 → (st 0).spe.engine ≠ .idle →
  ∃ n, (st n).spe.engine = .idle

/-! ### Host accesses -/

/-- A write to CTRL (R87): both fields take the written bits at once, and closing the transport under a pending
request ends the command with IO_ERROR; in SLEEP and IDLE nothing else happens. -/
def Obligations.CtrlWrite : Prop := ∀ (a v : Word) (s : State), a &&& 0x1FFFC = 0x000 →
  takeEvent (.memWrite a v) s = .next { s with
    spe := if s.spe.linkEn = true ∧ v.getLsbD 0 = false ∧
        (s.spe.engine = .send ∨ s.spe.engine = .rxHdr ∨ s.spe.engine = .rxBody) then
      { s.spe with
        linkEn := false, irqEn := v.getLsbD 1, errCode := .ioError, engine := .idle, done := true }
    else { s.spe with linkEn := v.getLsbD 0, irqEn := v.getLsbD 1 } }

/-- Writes to the CSRs other than CTRL and CMD (R18, R21, R23, R24, R34): the argument CSRs take their bits, STATUS
clears DONE and OVR where a 1 is written, and read-only CSRs, the PAYLOAD window and unmapped offsets ignore it. -/
def Obligations.CsrWritesFollowTheMap : Prop := ∀ (a v : Word) (s : State),
  (a &&& 0x1FFFC = 0x008 → takeEvent (.memWrite a v) s = .next { s with spe := { s.spe with
    done := if v.getLsbD 1 then false else s.spe.done, ovr := if v.getLsbD 2 then false else s.spe.ovr } }) ∧
  (a &&& 0x1FFFC = 0x010 →
    takeEvent (.memWrite a v) s = .next { s with spe := { s.spe with addr := v.extractLsb' 0 8 } }) ∧
  (a &&& 0x1FFFC = 0x014 → takeEvent (.memWrite a v) s = .next { s with spe := { s.spe with wdata := v } }) ∧
  (a &&& 0x1FFFC = 0x018 →
    takeEvent (.memWrite a v) s = .next { s with spe := { s.spe with offset := v.extractLsb' 0 16 } }) ∧
  (a &&& 0x1FFFC = 0x01C → takeEvent (.memWrite a v) s = .next { s with spe := { s.spe with wanted := v } }) ∧
  (a &&& 0x1FFFC = 0x020 → takeEvent (.memWrite a v) s = .next { s with spe := { s.spe with maxTime := v } }) ∧
  (a &&& 0x1FFFC = 0x024 → takeEvent (.memWrite a v) s = .next { s with spe := { s.spe with discardCap := v } }) ∧
  (a &&& 0x1FFFC = 0x00C ∨ 0x028 ≤ a &&& 0x1FFFC → takeEvent (.memWrite a v) s = .next s)

/-- A host read returns the CSR's word and changes nothing else (R43); the record of what was returned is the
model's own (log entry 8). -/
def Obligations.ReadsHaveNoSideEffect : Prop := ∀ (a : Word) (s : State),
  takeEvent (.memRead a) s = .next { s with hostReads := (csrAt a, memReadWord s.spe a) :: s.hostReads }

/-- The word each CSR reads (R18 to R24): fields at their bits, reserved bits 0, unmapped offsets 0. -/
def Obligations.CsrReadWords : Prop := ∀ (a : Word) (p : Spe),
  (a &&& 0x1FFFC = 0x000 →
    memReadWord p a = (if p.linkEn then 1 else 0) + (if p.irqEn then 2 else 0)) ∧
  (a &&& 0x1FFFC = 0x004 → (memReadWord p a).toNat = p.cmdOp.toNat) ∧
  (a &&& 0x1FFFC = 0x008 → (memReadWord p a).toNat =
    (if p.engine = .idle then 0 else 1) + (if p.done then 2 else 0) + (if p.ovr then 4 else 0) +
      256 * (match p.engine with | .idle => 0 | .send => 1 | .rxHdr => 2 | .rxBody => 3 | .sleep => 4)) ∧
  (a &&& 0x1FFFC = 0x00C → (memReadWord p a).toNat =
    (match p.errCode with
      | .noError => 0 | .framing => 1 | .timeout => 2 | .protocolMismatch => 3 | .moduleError => 4
      | .ioError => 5 | .tooManyDiscarded => 6 | .illegalCmd => 7) + (if p.tmoSrc then 256 else 0)) ∧
  (a &&& 0x1FFFC = 0x010 → (memReadWord p a).toNat = p.addr.toNat) ∧
  (a &&& 0x1FFFC = 0x014 → memReadWord p a = p.wdata) ∧
  (a &&& 0x1FFFC = 0x018 → (memReadWord p a).toNat = p.offset.toNat) ∧
  (a &&& 0x1FFFC = 0x01C → memReadWord p a = p.wanted) ∧
  (a &&& 0x1FFFC = 0x020 → memReadWord p a = p.maxTime) ∧
  (a &&& 0x1FFFC = 0x024 → memReadWord p a = p.discardCap) ∧
  (a &&& 0x1FFFC = 0x028 → memReadWord p a = p.result) ∧
  (a &&& 0x1FFFC = 0x02C → (memReadWord p a).toNat = p.plen.toNat) ∧
  (a &&& 0x1FFFC = 0x030 → memReadWord p a = p.discardCnt) ∧
  (a &&& 0x1FFFC = 0x034 → memReadWord p a = p.pollCnt) ∧
  (a &&& 0x1FFFC = 0x038 → memReadWord p a = p.elapsed) ∧
  (a &&& 0x1FFFC = 0x03C → memReadWord p a = p.lastHdr) ∧
  (0x040 ≤ a &&& 0x1FFFC → a &&& 0x1FFFC < 0x10000 → memReadWord p a = 0)

/-- The PAYLOAD window (R25): byte j of word k is byte 4 k + j of OUT below PLEN, and 0 from PLEN on; a write to it
changes nothing. -/
def Obligations.PayloadWindow : Prop := ∀ (s : State) (v : Word) (k j : Nat), k < 16384 → j < 4 →
  (memReadWord s.spe (BitVec.ofNat 32 (0x10000 + 4 * k))).extractLsb' (8 * j) 8 =
    (if 4 * k + j < s.spe.plen.toNat then s.spe.out.getD (4 * k + j) 0 else 0) ∧
  takeEvent (.memWrite (BitVec.ofNat 32 (0x10000 + 4 * k)) v) s = .next s

/-- A host access at `a` acts on the word at `a & 0x1FFFC`, and none traps (R41). -/
def Obligations.AccessesUseTheWordAddress : Prop := ∀ (a v : Word) (s : State),
  takeEvent (.memWrite a v) s = takeEvent (.memWrite (a &&& 0x1FFFC) v) s ∧
  takeEvent (.memRead a) s = takeEvent (.memRead (a &&& 0x1FFFC)) s ∧
  (∃ t, takeEvent (.memWrite a v) s = .next t) ∧ (∃ t, takeEvent (.memRead a) s = .next t)

/-- The interrupt (R120): `irq` is IRQ_EN and DONE, and it is 0 after a write of 1 to DONE, after a write of 0 to
IRQ_EN (DONE kept in IDLE), after a command was accepted that now runs, and after reset. -/
def Obligations.InterruptFollowsDone : Prop := ∀ (s : State),
  (s.spe.irq = true ↔ s.spe.irqEn = true ∧ s.spe.done = true) ∧
  (∀ v t, v.getLsbD 1 = true → takeEvent (.memWrite 0x008 v) s = .next t → t.spe.irq = false) ∧
  (∀ v t, v.getLsbD 1 = false → takeEvent (.memWrite 0x000 v) s = .next t →
    t.spe.irq = false ∧ (s.spe.engine = .idle → t.spe.done = s.spe.done)) ∧
  (∀ v t, s.spe.engine = .idle → takeEvent (.memWrite 0x004 v) s = .next t → t.spe.engine ≠ .idle →
    t.spe.irq = false) ∧
  (∀ t, takeEvent .reset s = .next t → t.spe.irq = false)

/-- The lines of a host program (R66, R67): `csrw` and `csrr` are the accesses at the CSR's offset, the loop on
STATUS goes on while BUSY reads 1, the wait for `irq` goes on while it is 0, and reading PLEN queues the reads of
the words that hold PLEN bytes. That the loops are lines which put themselves back or queue reads, one access a turn,
is the model's choice (log entry 14), and so is the record `hostReads` (log entry 8). -/
def Obligations.HostLinesAreAccesses : Prop := ∀ (s : State) (c : Csr) (v : Word) (ls : List HostLine) (q : State),
  q = { s with hostProg := ls } →
  (s.hostProg = .csrw c v :: ls → takeEvent .hostLine s = takeEvent (.memWrite (csrOffset c) v) q) ∧
  (s.hostProg = .csrr c :: ls → takeEvent .hostLine s = takeEvent (.memRead (csrOffset c)) q) ∧
  (s.hostProg = .waitNotBusy :: ls → takeEvent .hostLine s = .next { q with
    hostReads := (some .status, statusWord s.spe) :: s.hostReads
    hostProg := if s.spe.engine = .idle then ls else .waitNotBusy :: ls }) ∧
  (s.hostProg = .waitIrq :: ls → takeEvent .hostLine s = .next { q with
    hostProg := if s.spe.irqEn && s.spe.done then ls else .waitIrq :: ls }) ∧
  (s.hostProg = .readPayload :: ls → takeEvent .hostLine s = .next { q with
    hostReads := (some .plen, s.spe.plen.setWidth 32) :: s.hostReads
    hostProg := (List.range ((s.spe.plen.toNat + 3) / 4)).map (fun k => .csrr (.payload (BitVec.ofNat 14 k))) ++
      ls })

/-- The macros' expansions (R67, R109, R110): the first line of each runs at once and the others are the host's next
lines. That the first line runs in the macro's own step is the model's choice (log entry 7). So are WAIT_DONE's loop
as a line that puts itself back while BUSY reads 1 (log entry 14) and the record `hostReads` (log entry 8). -/
def Obligations.MacrosRunTheirExpansion : Prop := ∀ (a v : Word) (s : State) (done : List HostLine),
  done = [.csrr .err, .csrw .status 0x2] →
  exec (.doWriteReg a v) s = .next { s with
    spe := { s.spe with addr := a.extractLsb' 0 8 }
    hostProg := [.csrw .wdata v, .csrw .cmd 0x1, .waitNotBusy] ++ done ++ s.hostProg } ∧
  exec (.doReadReg a) s = .next { s with
    spe := { s.spe with addr := a.extractLsb' 0 8 }
    hostProg := [.csrw .cmd 0x2, .waitNotBusy] ++ done ++ [.csrr .result] ++ s.hostProg } ∧
  exec (.doReadBuf a) s = .next { s with
    spe := { s.spe with offset := a.extractLsb' 0 16 }
    hostProg := [.csrw .cmd 0x3, .waitNotBusy] ++ done ++ [.readPayload] ++ s.hostProg } ∧
  exec (.doPoll a v) s = .next { s with
    spe := { s.spe with wanted := a }
    hostProg := [.csrw .maxTime v, .csrw .cmd 0x5, .waitNotBusy] ++ done ++ s.hostProg } ∧
  exec .waitStart s = .next { s with
    spe := { s.spe with wanted := 0x3 }
    hostProg := [.csrw .maxTime 3000, .csrw .cmd 0x5, .waitNotBusy] ++ done ++ s.hostProg } ∧
  exec (.waitData v) s = .next { s with
    spe := { s.spe with wanted := 0x100 }
    hostProg := [.csrw .maxTime v, .csrw .cmd 0x5, .waitNotBusy] ++ done ++ s.hostProg } ∧
  exec .waitDone s = .next { s with
    hostReads := (some .status, statusWord s.spe) :: s.hostReads
    hostProg := (if s.spe.engine = .idle then [] else [.waitNotBusy]) ++ done ++ s.hostProg }

/-! ### Whole-machine rules -/

/-- The reset event (R128): from any state the SPE is as after reset, every CSR and the PAYLOAD window read 0, no
request is pending and `irq` is 0; the configuration and the environment are untouched. That TXBUF, RXBUF and OUT are
then the empty sequence, a part of `State.reset.spe`, is the model's choice (log entry 5): R128 leaves their bytes
unspecified. -/
def Obligations.ResetClearsEverything : Prop := ∀ (s : State), ∃ t, takeEvent .reset s = .next t ∧
  t = { s with spe := t.spe } ∧ (∀ a, memReadWord t.spe a = 0) ∧ t.spe.engine = .idle ∧ t.spe.irq = false ∧
  t.spe.lOp = 0 ∧ t.spe.lAddr = 0 ∧ t.spe.lWdata = 0 ∧ t.spe.lOffset = 0 ∧ t.spe.lWanted = 0 ∧
  t.spe.lMaxTime = 0 ∧ t.spe.lCap = 0 ∧ t.spe.expType = 0 ∧ t.spe.hdrTag = 0 ∧ t.spe.hdrLen = 0 ∧
  t.spe.hdrType = 0 ∧ t.spe.sleepCnt = 0 ∧ t.spe.txlen = 0 ∧ t.spe = State.reset.spe

/-- The invariant holds at reset. -/
def Obligations.ResetMeetsTheInvariant : Prop := State.reset.Inv

/-- Every step keeps the invariant, from every state that meets it. -/
def Obligations.StepKeepsTheInvariant : Prop := ∀ s t : State, s.Inv → step s = .next t → t.Inv

/-- ERR changes only in a step that ends a command, in one that accepts a command, or at reset (R32, R113): if ERR
changes, a running command has ended, or a CMD write in IDLE was accepted (its command runs with ERR clear, or has
ended in the same step), or the event is a reset. -/
def Obligations.ErrChangesOnlyAtEndOrAcceptance : Prop := ∀ (e : Event) (s t : State), takeEvent e s = .next t →
  (t.spe.errCode ≠ s.spe.errCode ∨ t.spe.tmoSrc ≠ s.spe.tmoSrc) →
  (s.spe.engine ≠ .idle ∧ t.spe.engine = .idle ∧ t.spe.done = true) ∨
  (s.spe.engine = .idle ∧
    ((∃ a v, e = .memWrite a v ∧ csrAt a = some .cmd) ∨
      (e = .hostLine ∧ ∃ ls, (∃ v, s.hostProg = .csrw .cmd v :: ls) ∨
        (∃ i w, s.hostProg = .run i :: ls ∧ encode i = .cmdWord w))) ∧
    t.spe.tmoSrc = false ∧
    ((t.spe.engine ≠ .idle ∧ t.spe.errCode = .noError ∧ t.spe.done = false) ∨
      (t.spe.engine = .idle ∧ (t.spe.errCode = .ioError ∨ t.spe.errCode = .illegalCmd) ∧ t.spe.done = true))) ∨
  e = .reset

/-- OVR (R118): it is set only by a CMD write while busy, which changes nothing else, and cleared only by the host's
write of 1 to its bit or by reset. -/
def Obligations.OverrunIsSticky : Prop := ∀ (e : Event) (s t : State), takeEvent e s = .next t →
  (s.spe.ovr = false → t.spe.ovr = true →
    s.spe.engine ≠ .idle ∧ t.spe = { s.spe with ovr := true } ∧
    ((∃ a v, e = .memWrite a v ∧ csrAt a = some .cmd) ∨
      (e = .hostLine ∧ ∃ ls, (∃ v, s.hostProg = .csrw .cmd v :: ls) ∨
        (∃ i w, s.hostProg = .run i :: ls ∧ encode i = .cmdWord w)))) ∧
  (s.spe.ovr = true → t.spe.ovr = false → e = .reset ∨
    (∃ a v, e = .memWrite a v ∧ csrAt a = some .status ∧ v.getLsbD 2 = true) ∨
    (e = .hostLine ∧ ∃ v ls, s.hostProg = .csrw .status v :: ls ∧ v.getLsbD 2 = true))

/-- Commands never write argument CSRs, and host writes never write result CSRs (R15): link answers, ticks and CMD
writes keep the six arguments, and a write to any other CSR keeps RESULT, PLEN, the counters, LAST_HDR and OUT. -/
def Obligations.ArgumentsAndResultsHaveOneWriter : Prop := ∀ (e : Event) (s t : State), takeEvent e s = .next t →
  ((∃ ans, e = .link ans) ∨ e = .tick ∨ (∃ a v, e = .memWrite a v ∧ csrAt a = some .cmd) →
    t.spe.addr = s.spe.addr ∧ t.spe.wdata = s.spe.wdata ∧ t.spe.offset = s.spe.offset ∧
    t.spe.wanted = s.spe.wanted ∧ t.spe.maxTime = s.spe.maxTime ∧ t.spe.discardCap = s.spe.discardCap) ∧
  ((∃ a v, e = .memWrite a v ∧ csrAt a ≠ some .cmd) →
    t.spe.result = s.spe.result ∧ t.spe.plen = s.spe.plen ∧ t.spe.discardCnt = s.spe.discardCnt ∧
    t.spe.pollCnt = s.spe.pollCnt ∧ t.spe.elapsed = s.spe.elapsed ∧ t.spe.lastHdr = s.spe.lastHdr ∧
    t.spe.out = s.spe.out)

/-- A running command does not see the argument CSRs (R27, R52, R135): on states that differ only there, a link answer
and a tick have the same outcome but for them. -/
def Obligations.ArgumentsAreLatched : Prop :=
  ∀ (e : Event) (s : State) (addr : Byte) (wdata : Word) (offset : BitVec 16) (wanted maxTime cap : Word),
  (∃ ans, e = .link ans) ∨ e = .tick →
  takeEvent e (s.withArgs addr wdata offset wanted maxTime cap) =
    mapNext (State.withArgs addr wdata offset wanted maxTime cap) (takeEvent e s)

/-- OUT changes only when a READ_BUF or READ_STREAM succeeds, or at reset (R53). -/
def Obligations.OutChangesOnlyOnSuccess : Prop := ∀ (e : Event) (s t : State), takeEvent e s = .next t →
  t.spe.out ≠ s.spe.out →
  e = .reset ∨ (s.spe.engine = .rxBody ∧ (s.spe.lOp = 3 ∨ s.spe.lOp = 4) ∧
    t.spe.engine = .idle ∧ t.spe.done = true ∧ t.spe.errCode = .noError)

/-- A register-access command that ends with an error leaves RESULT = 0 and PLEN = 0 (R98), in every state that meets
the invariant. -/
def Obligations.FailedAccessLeavesNoResult : Prop := ∀ (e : Event) (s t : State), s.Inv →
  s.spe.engine ≠ .idle → s.spe.lOp ≠ 5 → takeEvent e s = .next t → t.spe.done = true → t.spe.errCode ≠ .noError →
  t.spe.result = 0 ∧ t.spe.plen = 0

/-- After a command has ended, its results stay until the next command (R50): from IDLE, no event but a CMD write, a
host line or a reset changes what ERR, RESULT, PLEN, the counters, LAST_HDR and the PAYLOAD window read. -/
def Obligations.ResultsStayAfterTheEnd : Prop := ∀ (e : Event) (s t : State), s.spe.engine = .idle →
  takeEvent e s = .next t → e ≠ .reset → e ≠ .hostLine → (∀ a v, e = .memWrite a v → csrAt a ≠ some .cmd) →
  t.spe.engine = .idle ∧
  ∀ c, (c = .err ∨ c = .result ∨ c = .plen ∨ c = .discardCnt ∨ c = .pollCnt ∨ c = .elapsed ∨ c = .lastHdr ∨
    ∃ k, c = .payload k) → csrRead t.spe c = csrRead s.spe c

/-- SLEEP is left by a tick, or by reset, and IDLE by a CMD write (R127, R128). -/
def Obligations.SleepAndIdleAreLeftAsStated : Prop := ∀ (e : Event) (s t : State), takeEvent e s = .next t →
  (s.spe.engine = .sleep → t.spe.engine ≠ .sleep → e = .tick ∨ e = .reset) ∧
  (s.spe.engine = .idle → t.spe.engine ≠ .idle →
    (∃ a v, e = .memWrite a v ∧ csrAt a = some .cmd) ∨
    (e = .hostLine ∧ ∃ ls, (∃ v, s.hostProg = .csrw .cmd v :: ls) ∨
      (∃ i w, s.hostProg = .run i :: ls ∧ encode i = .cmdWord w)))
end

