-- ==== Sys2Proof/Laws/Bytes.lean ====
section
/-! SUPPORT. Laws of the byte assembly (R11) and of the framer (R69 to R71). -/

namespace Sys2Proof.Machine

@[simp] theorem le16_length (v : BitVec 16) : (le16 v).length = 2 := rfl

@[simp] theorem le32_length (v : Word) : (le32 v).length = 4 := rfl

/-- Assembling the two bytes of a 16-bit value gives it back. -/
theorem u16le_of_le16 (v : BitVec 16) : u16le (v.extractLsb' 0 8) (v.extractLsb' 8 8) = v := by
  ext i hi
  simp only [u16le, ← BitVec.getLsbD_eq_getElem, BitVec.getLsbD_or, BitVec.getLsbD_shiftLeft,
    BitVec.getLsbD_setWidth, BitVec.getLsbD_extractLsb']
  by_cases h : i < 8
  · simp [h, hi]
  · simp [h, hi, show i - 8 < 8 by omega, show i - 8 < 16 by omega, show 8 + (i - 8) = i by omega]

/-- The two bytes of an assembled value are the bytes it was made of. -/
theorem le16_u16le (a b : Byte) : le16 (u16le a b) = [a, b] := by
  have ha : (u16le a b).extractLsb' 0 8 = a := by
    ext i hi
    simp only [u16le, ← BitVec.getLsbD_eq_getElem, BitVec.getLsbD_or, BitVec.getLsbD_shiftLeft,
      BitVec.getLsbD_setWidth, BitVec.getLsbD_extractLsb']
    simp [hi, show i < 16 by omega]
  have hb : (u16le a b).extractLsb' 8 8 = b := by
    ext i hi
    have h4 : a.getLsbD (8 + i) = false := BitVec.getLsbD_of_ge _ _ (by omega)
    simp only [u16le, ← BitVec.getLsbD_eq_getElem, BitVec.getLsbD_or, BitVec.getLsbD_shiftLeft,
      BitVec.getLsbD_setWidth, BitVec.getLsbD_extractLsb', h4]
    simp [hi, show 8 + i < 16 by omega, show i < 16 by omega]
  simp [le16, ha, hb]

/-- Assembling the four bytes of a 32-bit value gives it back. -/
theorem u32le_of_le32 (v : Word) :
    u32le (v.extractLsb' 0 8) (v.extractLsb' 8 8) (v.extractLsb' 16 8) (v.extractLsb' 24 8) = v := by
  ext i hi
  simp only [u32le, ← BitVec.getLsbD_eq_getElem, BitVec.getLsbD_or, BitVec.getLsbD_shiftLeft,
    BitVec.getLsbD_setWidth, BitVec.getLsbD_extractLsb']
  by_cases h8 : i < 8
  · simp [h8, show i < 32 by omega, show i < 16 by omega, show i < 24 by omega]
  by_cases h16 : i < 16
  · simp [h8, h16, show i < 32 by omega, show i < 24 by omega, show i - 8 < 8 by omega,
      show i - 8 < 32 by omega, show 8 + (i - 8) = i by omega]
  by_cases h24 : i < 24
  · simp [h8, h16, h24, show i < 32 by omega, show ¬ i - 8 < 8 by omega, show i - 16 < 8 by omega,
      show i - 16 < 32 by omega, show 16 + (i - 16) = i by omega]
  · simp [h8, h16, h24, show i < 32 by omega, show ¬ i - 8 < 8 by omega, show ¬ i - 16 < 8 by omega,
      show i - 24 < 8 by omega, show i - 24 < 32 by omega, show 24 + (i - 24) = i by omega]

@[simp] theorem decodeHeader_four (tag l0 l1 type : Byte) :
    decodeHeader [tag, l0, l1, type] = some (tag, u16le l0 l1, type) := rfl

/-- A header is decoded from exactly four bytes (R70). -/
theorem decodeHeader_isSome {h : List Byte} : (decodeHeader h).isSome = true ↔ h.length = 4 := by
  rcases h with _ | ⟨a, _ | ⟨b, _ | ⟨c, _ | ⟨d, _ | ⟨e, t⟩⟩⟩⟩⟩ <;> simp [decodeHeader]

/-- A body whose last byte is the terminator is its payload (R71). -/
theorem decodeBody_good (len : BitVec 16) (p : List Byte) (h : len.toNat = p.length) :
    decodeBody len (p ++ [termByte]) = some p := by
  simp [decodeBody, h]

/-- A body whose last byte is another byte is a framing error (R71). -/
theorem decodeBody_bad (len : BitVec 16) (p : List Byte) (t : Byte) (h : len.toNat = p.length)
    (ht : t ≠ termByte) : decodeBody len (p ++ [t]) = none := by
  simpa [decodeBody, h] using ht

/-- A decoded body is the bytes before its last byte, which is the terminator (R71). -/
theorem decodeBody_some {len : BitVec 16} {b r : List Byte} (h : decodeBody len b = some r) :
    b[len.toNat]? = some termByte ∧ r = b.take len.toNat ∧ r.length = len.toNat := by
  unfold decodeBody at h
  split at h
  next hb =>
    obtain rfl : b.take len.toNat = r := by simpa using h
    obtain ⟨hlt, -⟩ := List.getElem?_eq_some_iff.mp hb
    exact ⟨hb, rfl, by simp; omega⟩
  next => cases h

/-- Below saturation `satInc` adds one (R24). -/
theorem satInc_of_lt {w : Word} (h : w.toNat < 0xFFFFFFFF) : (satInc w).toNat = w.toNat + 1 := by
  have hne : w ≠ 0xFFFFFFFF := by rintro rfl; exact absurd h (by decide)
  unfold satInc
  rw [if_neg hne, BitVec.toNat_add, show (1 : Word).toNat = 1 from rfl]
  omega

/-- `satInc` never decreases (R24). -/
theorem satInc_ge (w : Word) : w.toNat ≤ (satInc w).toNat := by
  by_cases h : w.toNat < 0xFFFFFFFF
  · rw [satInc_of_lt h]; omega
  · have : w = 0xFFFFFFFF := BitVec.eq_of_toNat_eq (by
      have := w.isLt; rw [show (0xFFFFFFFF : Word).toNat = 0xFFFFFFFF from rfl]; omega)
    subst this; exact Nat.le_refl _

@[simp] theorem satInc_max : satInc 0xFFFFFFFF = 0xFFFFFFFF := rfl

end Sys2Proof.Machine
end

