-- ==== Sys2Proof/Laws/State.lean ====
section
/-! SUPPORT. One lemma per field and named update of the state, each true by unfolding the update once. -/

namespace Sys2Proof.Machine

/-! ### `endCmd` -/

@[simp] theorem endCmd_linkEn (k : ErrKind) (p : Spe) : (endCmd k p).linkEn = p.linkEn := rfl
@[simp] theorem endCmd_irqEn (k : ErrKind) (p : Spe) : (endCmd k p).irqEn = p.irqEn := rfl
@[simp] theorem endCmd_cmdOp (k : ErrKind) (p : Spe) : (endCmd k p).cmdOp = p.cmdOp := rfl
@[simp] theorem endCmd_done (k : ErrKind) (p : Spe) : (endCmd k p).done = true := rfl
@[simp] theorem endCmd_ovr (k : ErrKind) (p : Spe) : (endCmd k p).ovr = p.ovr := rfl
@[simp] theorem endCmd_errCode (k : ErrKind) (p : Spe) : (endCmd k p).errCode = k := rfl
@[simp] theorem endCmd_tmoSrc (k : ErrKind) (p : Spe) : (endCmd k p).tmoSrc = p.tmoSrc := rfl
@[simp] theorem endCmd_addr (k : ErrKind) (p : Spe) : (endCmd k p).addr = p.addr := rfl
@[simp] theorem endCmd_wdata (k : ErrKind) (p : Spe) : (endCmd k p).wdata = p.wdata := rfl
@[simp] theorem endCmd_offset (k : ErrKind) (p : Spe) : (endCmd k p).offset = p.offset := rfl
@[simp] theorem endCmd_wanted (k : ErrKind) (p : Spe) : (endCmd k p).wanted = p.wanted := rfl
@[simp] theorem endCmd_maxTime (k : ErrKind) (p : Spe) : (endCmd k p).maxTime = p.maxTime := rfl
@[simp] theorem endCmd_discardCap (k : ErrKind) (p : Spe) : (endCmd k p).discardCap = p.discardCap := rfl
@[simp] theorem endCmd_result (k : ErrKind) (p : Spe) : (endCmd k p).result = p.result := rfl
@[simp] theorem endCmd_plen (k : ErrKind) (p : Spe) : (endCmd k p).plen = p.plen := rfl
@[simp] theorem endCmd_discardCnt (k : ErrKind) (p : Spe) : (endCmd k p).discardCnt = p.discardCnt := rfl
@[simp] theorem endCmd_pollCnt (k : ErrKind) (p : Spe) : (endCmd k p).pollCnt = p.pollCnt := rfl
@[simp] theorem endCmd_elapsed (k : ErrKind) (p : Spe) : (endCmd k p).elapsed = p.elapsed := rfl
@[simp] theorem endCmd_lastHdr (k : ErrKind) (p : Spe) : (endCmd k p).lastHdr = p.lastHdr := rfl
@[simp] theorem endCmd_engine (k : ErrKind) (p : Spe) : (endCmd k p).engine = .idle := rfl
@[simp] theorem endCmd_lOp (k : ErrKind) (p : Spe) : (endCmd k p).lOp = p.lOp := rfl
@[simp] theorem endCmd_lAddr (k : ErrKind) (p : Spe) : (endCmd k p).lAddr = p.lAddr := rfl
@[simp] theorem endCmd_lWdata (k : ErrKind) (p : Spe) : (endCmd k p).lWdata = p.lWdata := rfl
@[simp] theorem endCmd_lOffset (k : ErrKind) (p : Spe) : (endCmd k p).lOffset = p.lOffset := rfl
@[simp] theorem endCmd_lWanted (k : ErrKind) (p : Spe) : (endCmd k p).lWanted = p.lWanted := rfl
@[simp] theorem endCmd_lMaxTime (k : ErrKind) (p : Spe) : (endCmd k p).lMaxTime = p.lMaxTime := rfl
@[simp] theorem endCmd_lCap (k : ErrKind) (p : Spe) : (endCmd k p).lCap = p.lCap := rfl
@[simp] theorem endCmd_expType (k : ErrKind) (p : Spe) : (endCmd k p).expType = p.expType := rfl
@[simp] theorem endCmd_hdrTag (k : ErrKind) (p : Spe) : (endCmd k p).hdrTag = p.hdrTag := rfl
@[simp] theorem endCmd_hdrLen (k : ErrKind) (p : Spe) : (endCmd k p).hdrLen = p.hdrLen := rfl
@[simp] theorem endCmd_hdrType (k : ErrKind) (p : Spe) : (endCmd k p).hdrType = p.hdrType := rfl
@[simp] theorem endCmd_sleepCnt (k : ErrKind) (p : Spe) : (endCmd k p).sleepCnt = p.sleepCnt := rfl
@[simp] theorem endCmd_txbuf (k : ErrKind) (p : Spe) : (endCmd k p).txbuf = p.txbuf := rfl
@[simp] theorem endCmd_txlen (k : ErrKind) (p : Spe) : (endCmd k p).txlen = p.txlen := rfl
@[simp] theorem endCmd_rxbuf (k : ErrKind) (p : Spe) : (endCmd k p).rxbuf = p.rxbuf := rfl
@[simp] theorem endCmd_out (k : ErrKind) (p : Spe) : (endCmd k p).out = p.out := rfl

/-! ### `raiseTimeout` -/

@[simp] theorem raiseTimeout_linkEn (src : Bool) (p : Spe) : (raiseTimeout src p).linkEn = p.linkEn := rfl
@[simp] theorem raiseTimeout_irqEn (src : Bool) (p : Spe) : (raiseTimeout src p).irqEn = p.irqEn := rfl
@[simp] theorem raiseTimeout_cmdOp (src : Bool) (p : Spe) : (raiseTimeout src p).cmdOp = p.cmdOp := rfl
@[simp] theorem raiseTimeout_done (src : Bool) (p : Spe) : (raiseTimeout src p).done = true := rfl
@[simp] theorem raiseTimeout_ovr (src : Bool) (p : Spe) : (raiseTimeout src p).ovr = p.ovr := rfl
@[simp] theorem raiseTimeout_errCode (src : Bool) (p : Spe) : (raiseTimeout src p).errCode = .timeout := rfl
@[simp] theorem raiseTimeout_tmoSrc (src : Bool) (p : Spe) : (raiseTimeout src p).tmoSrc = src := rfl
@[simp] theorem raiseTimeout_addr (src : Bool) (p : Spe) : (raiseTimeout src p).addr = p.addr := rfl
@[simp] theorem raiseTimeout_wdata (src : Bool) (p : Spe) : (raiseTimeout src p).wdata = p.wdata := rfl
@[simp] theorem raiseTimeout_offset (src : Bool) (p : Spe) : (raiseTimeout src p).offset = p.offset := rfl
@[simp] theorem raiseTimeout_wanted (src : Bool) (p : Spe) : (raiseTimeout src p).wanted = p.wanted := rfl
@[simp] theorem raiseTimeout_maxTime (src : Bool) (p : Spe) : (raiseTimeout src p).maxTime = p.maxTime := rfl
@[simp] theorem raiseTimeout_discardCap (src : Bool) (p : Spe) : (raiseTimeout src p).discardCap = p.discardCap := rfl
@[simp] theorem raiseTimeout_result (src : Bool) (p : Spe) : (raiseTimeout src p).result = p.result := rfl
@[simp] theorem raiseTimeout_plen (src : Bool) (p : Spe) : (raiseTimeout src p).plen = p.plen := rfl
@[simp] theorem raiseTimeout_discardCnt (src : Bool) (p : Spe) : (raiseTimeout src p).discardCnt = p.discardCnt := rfl
@[simp] theorem raiseTimeout_pollCnt (src : Bool) (p : Spe) : (raiseTimeout src p).pollCnt = p.pollCnt := rfl
@[simp] theorem raiseTimeout_elapsed (src : Bool) (p : Spe) : (raiseTimeout src p).elapsed = p.elapsed := rfl
@[simp] theorem raiseTimeout_lastHdr (src : Bool) (p : Spe) : (raiseTimeout src p).lastHdr = p.lastHdr := rfl
@[simp] theorem raiseTimeout_engine (src : Bool) (p : Spe) : (raiseTimeout src p).engine = .idle := rfl
@[simp] theorem raiseTimeout_lOp (src : Bool) (p : Spe) : (raiseTimeout src p).lOp = p.lOp := rfl
@[simp] theorem raiseTimeout_lAddr (src : Bool) (p : Spe) : (raiseTimeout src p).lAddr = p.lAddr := rfl
@[simp] theorem raiseTimeout_lWdata (src : Bool) (p : Spe) : (raiseTimeout src p).lWdata = p.lWdata := rfl
@[simp] theorem raiseTimeout_lOffset (src : Bool) (p : Spe) : (raiseTimeout src p).lOffset = p.lOffset := rfl
@[simp] theorem raiseTimeout_lWanted (src : Bool) (p : Spe) : (raiseTimeout src p).lWanted = p.lWanted := rfl
@[simp] theorem raiseTimeout_lMaxTime (src : Bool) (p : Spe) : (raiseTimeout src p).lMaxTime = p.lMaxTime := rfl
@[simp] theorem raiseTimeout_lCap (src : Bool) (p : Spe) : (raiseTimeout src p).lCap = p.lCap := rfl
@[simp] theorem raiseTimeout_expType (src : Bool) (p : Spe) : (raiseTimeout src p).expType = p.expType := rfl
@[simp] theorem raiseTimeout_hdrTag (src : Bool) (p : Spe) : (raiseTimeout src p).hdrTag = p.hdrTag := rfl
@[simp] theorem raiseTimeout_hdrLen (src : Bool) (p : Spe) : (raiseTimeout src p).hdrLen = p.hdrLen := rfl
@[simp] theorem raiseTimeout_hdrType (src : Bool) (p : Spe) : (raiseTimeout src p).hdrType = p.hdrType := rfl
@[simp] theorem raiseTimeout_sleepCnt (src : Bool) (p : Spe) : (raiseTimeout src p).sleepCnt = p.sleepCnt := rfl
@[simp] theorem raiseTimeout_txbuf (src : Bool) (p : Spe) : (raiseTimeout src p).txbuf = p.txbuf := rfl
@[simp] theorem raiseTimeout_txlen (src : Bool) (p : Spe) : (raiseTimeout src p).txlen = p.txlen := rfl
@[simp] theorem raiseTimeout_rxbuf (src : Bool) (p : Spe) : (raiseTimeout src p).rxbuf = p.rxbuf := rfl
@[simp] theorem raiseTimeout_out (src : Bool) (p : Spe) : (raiseTimeout src p).out = p.out := rfl

/-! ### `accept` -/

@[simp] theorem accept_linkEn (op : BitVec 4) (p : Spe) : (accept op p).linkEn = p.linkEn := rfl
@[simp] theorem accept_irqEn (op : BitVec 4) (p : Spe) : (accept op p).irqEn = p.irqEn := rfl
@[simp] theorem accept_cmdOp (op : BitVec 4) (p : Spe) : (accept op p).cmdOp = op := rfl
@[simp] theorem accept_done (op : BitVec 4) (p : Spe) : (accept op p).done = false := rfl
@[simp] theorem accept_ovr (op : BitVec 4) (p : Spe) : (accept op p).ovr = p.ovr := rfl
@[simp] theorem accept_errCode (op : BitVec 4) (p : Spe) : (accept op p).errCode = .noError := rfl
@[simp] theorem accept_tmoSrc (op : BitVec 4) (p : Spe) : (accept op p).tmoSrc = false := rfl
@[simp] theorem accept_addr (op : BitVec 4) (p : Spe) : (accept op p).addr = p.addr := rfl
@[simp] theorem accept_wdata (op : BitVec 4) (p : Spe) : (accept op p).wdata = p.wdata := rfl
@[simp] theorem accept_offset (op : BitVec 4) (p : Spe) : (accept op p).offset = p.offset := rfl
@[simp] theorem accept_wanted (op : BitVec 4) (p : Spe) : (accept op p).wanted = p.wanted := rfl
@[simp] theorem accept_maxTime (op : BitVec 4) (p : Spe) : (accept op p).maxTime = p.maxTime := rfl
@[simp] theorem accept_discardCap (op : BitVec 4) (p : Spe) : (accept op p).discardCap = p.discardCap := rfl
@[simp] theorem accept_result (op : BitVec 4) (p : Spe) : (accept op p).result = 0 := rfl
@[simp] theorem accept_plen (op : BitVec 4) (p : Spe) : (accept op p).plen = 0 := rfl
@[simp] theorem accept_discardCnt (op : BitVec 4) (p : Spe) : (accept op p).discardCnt = 0 := rfl
@[simp] theorem accept_pollCnt (op : BitVec 4) (p : Spe) : (accept op p).pollCnt = 0 := rfl
@[simp] theorem accept_elapsed (op : BitVec 4) (p : Spe) : (accept op p).elapsed = 0 := rfl
@[simp] theorem accept_lastHdr (op : BitVec 4) (p : Spe) : (accept op p).lastHdr = p.lastHdr := rfl
@[simp] theorem accept_engine (op : BitVec 4) (p : Spe) : (accept op p).engine = p.engine := rfl
@[simp] theorem accept_lOp (op : BitVec 4) (p : Spe) : (accept op p).lOp = op := rfl
@[simp] theorem accept_lAddr (op : BitVec 4) (p : Spe) : (accept op p).lAddr = p.addr := rfl
@[simp] theorem accept_lWdata (op : BitVec 4) (p : Spe) : (accept op p).lWdata = p.wdata := rfl
@[simp] theorem accept_lOffset (op : BitVec 4) (p : Spe) : (accept op p).lOffset = p.offset := rfl
@[simp] theorem accept_lWanted (op : BitVec 4) (p : Spe) : (accept op p).lWanted = p.wanted := rfl
@[simp] theorem accept_lMaxTime (op : BitVec 4) (p : Spe) : (accept op p).lMaxTime = p.maxTime := rfl
@[simp] theorem accept_lCap (op : BitVec 4) (p : Spe) : (accept op p).lCap = p.discardCap := rfl
@[simp] theorem accept_expType (op : BitVec 4) (p : Spe) : (accept op p).expType = p.expType := rfl
@[simp] theorem accept_hdrTag (op : BitVec 4) (p : Spe) : (accept op p).hdrTag = p.hdrTag := rfl
@[simp] theorem accept_hdrLen (op : BitVec 4) (p : Spe) : (accept op p).hdrLen = p.hdrLen := rfl
@[simp] theorem accept_hdrType (op : BitVec 4) (p : Spe) : (accept op p).hdrType = p.hdrType := rfl
@[simp] theorem accept_sleepCnt (op : BitVec 4) (p : Spe) : (accept op p).sleepCnt = p.sleepCnt := rfl
@[simp] theorem accept_txbuf (op : BitVec 4) (p : Spe) : (accept op p).txbuf = p.txbuf := rfl
@[simp] theorem accept_txlen (op : BitVec 4) (p : Spe) : (accept op p).txlen = p.txlen := rfl
@[simp] theorem accept_rxbuf (op : BitVec 4) (p : Spe) : (accept op p).rxbuf = p.rxbuf := rfl
@[simp] theorem accept_out (op : BitVec 4) (p : Spe) : (accept op p).out = p.out := rfl

/-! ### `headerReceived` -/

@[simp] theorem headerReceived_linkEn (tag : Byte) (len : BitVec 16) (type : Byte) (p : Spe) : (headerReceived tag len type p).linkEn = p.linkEn := rfl
@[simp] theorem headerReceived_irqEn (tag : Byte) (len : BitVec 16) (type : Byte) (p : Spe) : (headerReceived tag len type p).irqEn = p.irqEn := rfl
@[simp] theorem headerReceived_cmdOp (tag : Byte) (len : BitVec 16) (type : Byte) (p : Spe) : (headerReceived tag len type p).cmdOp = p.cmdOp := rfl
@[simp] theorem headerReceived_done (tag : Byte) (len : BitVec 16) (type : Byte) (p : Spe) : (headerReceived tag len type p).done = p.done := rfl
@[simp] theorem headerReceived_ovr (tag : Byte) (len : BitVec 16) (type : Byte) (p : Spe) : (headerReceived tag len type p).ovr = p.ovr := rfl
@[simp] theorem headerReceived_errCode (tag : Byte) (len : BitVec 16) (type : Byte) (p : Spe) : (headerReceived tag len type p).errCode = p.errCode := rfl
@[simp] theorem headerReceived_tmoSrc (tag : Byte) (len : BitVec 16) (type : Byte) (p : Spe) : (headerReceived tag len type p).tmoSrc = p.tmoSrc := rfl
@[simp] theorem headerReceived_addr (tag : Byte) (len : BitVec 16) (type : Byte) (p : Spe) : (headerReceived tag len type p).addr = p.addr := rfl
@[simp] theorem headerReceived_wdata (tag : Byte) (len : BitVec 16) (type : Byte) (p : Spe) : (headerReceived tag len type p).wdata = p.wdata := rfl
@[simp] theorem headerReceived_offset (tag : Byte) (len : BitVec 16) (type : Byte) (p : Spe) : (headerReceived tag len type p).offset = p.offset := rfl
@[simp] theorem headerReceived_wanted (tag : Byte) (len : BitVec 16) (type : Byte) (p : Spe) : (headerReceived tag len type p).wanted = p.wanted := rfl
@[simp] theorem headerReceived_maxTime (tag : Byte) (len : BitVec 16) (type : Byte) (p : Spe) : (headerReceived tag len type p).maxTime = p.maxTime := rfl
@[simp] theorem headerReceived_discardCap (tag : Byte) (len : BitVec 16) (type : Byte) (p : Spe) : (headerReceived tag len type p).discardCap = p.discardCap := rfl
@[simp] theorem headerReceived_result (tag : Byte) (len : BitVec 16) (type : Byte) (p : Spe) : (headerReceived tag len type p).result = p.result := rfl
@[simp] theorem headerReceived_plen (tag : Byte) (len : BitVec 16) (type : Byte) (p : Spe) : (headerReceived tag len type p).plen = p.plen := rfl
@[simp] theorem headerReceived_discardCnt (tag : Byte) (len : BitVec 16) (type : Byte) (p : Spe) : (headerReceived tag len type p).discardCnt = p.discardCnt := rfl
@[simp] theorem headerReceived_pollCnt (tag : Byte) (len : BitVec 16) (type : Byte) (p : Spe) : (headerReceived tag len type p).pollCnt = p.pollCnt := rfl
@[simp] theorem headerReceived_elapsed (tag : Byte) (len : BitVec 16) (type : Byte) (p : Spe) : (headerReceived tag len type p).elapsed = p.elapsed := rfl
@[simp] theorem headerReceived_lastHdr (tag : Byte) (len : BitVec 16) (type : Byte) (p : Spe) : (headerReceived tag len type p).lastHdr = headerWord tag len type := rfl
@[simp] theorem headerReceived_engine (tag : Byte) (len : BitVec 16) (type : Byte) (p : Spe) : (headerReceived tag len type p).engine = .rxBody := rfl
@[simp] theorem headerReceived_lOp (tag : Byte) (len : BitVec 16) (type : Byte) (p : Spe) : (headerReceived tag len type p).lOp = p.lOp := rfl
@[simp] theorem headerReceived_lAddr (tag : Byte) (len : BitVec 16) (type : Byte) (p : Spe) : (headerReceived tag len type p).lAddr = p.lAddr := rfl
@[simp] theorem headerReceived_lWdata (tag : Byte) (len : BitVec 16) (type : Byte) (p : Spe) : (headerReceived tag len type p).lWdata = p.lWdata := rfl
@[simp] theorem headerReceived_lOffset (tag : Byte) (len : BitVec 16) (type : Byte) (p : Spe) : (headerReceived tag len type p).lOffset = p.lOffset := rfl
@[simp] theorem headerReceived_lWanted (tag : Byte) (len : BitVec 16) (type : Byte) (p : Spe) : (headerReceived tag len type p).lWanted = p.lWanted := rfl
@[simp] theorem headerReceived_lMaxTime (tag : Byte) (len : BitVec 16) (type : Byte) (p : Spe) : (headerReceived tag len type p).lMaxTime = p.lMaxTime := rfl
@[simp] theorem headerReceived_lCap (tag : Byte) (len : BitVec 16) (type : Byte) (p : Spe) : (headerReceived tag len type p).lCap = p.lCap := rfl
@[simp] theorem headerReceived_expType (tag : Byte) (len : BitVec 16) (type : Byte) (p : Spe) : (headerReceived tag len type p).expType = p.expType := rfl
@[simp] theorem headerReceived_hdrTag (tag : Byte) (len : BitVec 16) (type : Byte) (p : Spe) : (headerReceived tag len type p).hdrTag = tag := rfl
@[simp] theorem headerReceived_hdrLen (tag : Byte) (len : BitVec 16) (type : Byte) (p : Spe) : (headerReceived tag len type p).hdrLen = len := rfl
@[simp] theorem headerReceived_hdrType (tag : Byte) (len : BitVec 16) (type : Byte) (p : Spe) : (headerReceived tag len type p).hdrType = type := rfl
@[simp] theorem headerReceived_sleepCnt (tag : Byte) (len : BitVec 16) (type : Byte) (p : Spe) : (headerReceived tag len type p).sleepCnt = p.sleepCnt := rfl
@[simp] theorem headerReceived_txbuf (tag : Byte) (len : BitVec 16) (type : Byte) (p : Spe) : (headerReceived tag len type p).txbuf = p.txbuf := rfl
@[simp] theorem headerReceived_txlen (tag : Byte) (len : BitVec 16) (type : Byte) (p : Spe) : (headerReceived tag len type p).txlen = p.txlen := rfl
@[simp] theorem headerReceived_rxbuf (tag : Byte) (len : BitVec 16) (type : Byte) (p : Spe) : (headerReceived tag len type p).rxbuf = p.rxbuf := rfl
@[simp] theorem headerReceived_out (tag : Byte) (len : BitVec 16) (type : Byte) (p : Spe) : (headerReceived tag len type p).out = p.out := rfl

/-! ### `writeStatus` -/

@[simp] theorem writeStatus_linkEn (v : Word) (p : Spe) : (writeStatus v p).linkEn = p.linkEn := rfl
@[simp] theorem writeStatus_irqEn (v : Word) (p : Spe) : (writeStatus v p).irqEn = p.irqEn := rfl
@[simp] theorem writeStatus_cmdOp (v : Word) (p : Spe) : (writeStatus v p).cmdOp = p.cmdOp := rfl
@[simp] theorem writeStatus_done (v : Word) (p : Spe) : (writeStatus v p).done = (p.done && !v.getLsbD 1) := rfl
@[simp] theorem writeStatus_ovr (v : Word) (p : Spe) : (writeStatus v p).ovr = (p.ovr && !v.getLsbD 2) := rfl
@[simp] theorem writeStatus_errCode (v : Word) (p : Spe) : (writeStatus v p).errCode = p.errCode := rfl
@[simp] theorem writeStatus_tmoSrc (v : Word) (p : Spe) : (writeStatus v p).tmoSrc = p.tmoSrc := rfl
@[simp] theorem writeStatus_addr (v : Word) (p : Spe) : (writeStatus v p).addr = p.addr := rfl
@[simp] theorem writeStatus_wdata (v : Word) (p : Spe) : (writeStatus v p).wdata = p.wdata := rfl
@[simp] theorem writeStatus_offset (v : Word) (p : Spe) : (writeStatus v p).offset = p.offset := rfl
@[simp] theorem writeStatus_wanted (v : Word) (p : Spe) : (writeStatus v p).wanted = p.wanted := rfl
@[simp] theorem writeStatus_maxTime (v : Word) (p : Spe) : (writeStatus v p).maxTime = p.maxTime := rfl
@[simp] theorem writeStatus_discardCap (v : Word) (p : Spe) : (writeStatus v p).discardCap = p.discardCap := rfl
@[simp] theorem writeStatus_result (v : Word) (p : Spe) : (writeStatus v p).result = p.result := rfl
@[simp] theorem writeStatus_plen (v : Word) (p : Spe) : (writeStatus v p).plen = p.plen := rfl
@[simp] theorem writeStatus_discardCnt (v : Word) (p : Spe) : (writeStatus v p).discardCnt = p.discardCnt := rfl
@[simp] theorem writeStatus_pollCnt (v : Word) (p : Spe) : (writeStatus v p).pollCnt = p.pollCnt := rfl
@[simp] theorem writeStatus_elapsed (v : Word) (p : Spe) : (writeStatus v p).elapsed = p.elapsed := rfl
@[simp] theorem writeStatus_lastHdr (v : Word) (p : Spe) : (writeStatus v p).lastHdr = p.lastHdr := rfl
@[simp] theorem writeStatus_engine (v : Word) (p : Spe) : (writeStatus v p).engine = p.engine := rfl
@[simp] theorem writeStatus_lOp (v : Word) (p : Spe) : (writeStatus v p).lOp = p.lOp := rfl
@[simp] theorem writeStatus_lAddr (v : Word) (p : Spe) : (writeStatus v p).lAddr = p.lAddr := rfl
@[simp] theorem writeStatus_lWdata (v : Word) (p : Spe) : (writeStatus v p).lWdata = p.lWdata := rfl
@[simp] theorem writeStatus_lOffset (v : Word) (p : Spe) : (writeStatus v p).lOffset = p.lOffset := rfl
@[simp] theorem writeStatus_lWanted (v : Word) (p : Spe) : (writeStatus v p).lWanted = p.lWanted := rfl
@[simp] theorem writeStatus_lMaxTime (v : Word) (p : Spe) : (writeStatus v p).lMaxTime = p.lMaxTime := rfl
@[simp] theorem writeStatus_lCap (v : Word) (p : Spe) : (writeStatus v p).lCap = p.lCap := rfl
@[simp] theorem writeStatus_expType (v : Word) (p : Spe) : (writeStatus v p).expType = p.expType := rfl
@[simp] theorem writeStatus_hdrTag (v : Word) (p : Spe) : (writeStatus v p).hdrTag = p.hdrTag := rfl
@[simp] theorem writeStatus_hdrLen (v : Word) (p : Spe) : (writeStatus v p).hdrLen = p.hdrLen := rfl
@[simp] theorem writeStatus_hdrType (v : Word) (p : Spe) : (writeStatus v p).hdrType = p.hdrType := rfl
@[simp] theorem writeStatus_sleepCnt (v : Word) (p : Spe) : (writeStatus v p).sleepCnt = p.sleepCnt := rfl
@[simp] theorem writeStatus_txbuf (v : Word) (p : Spe) : (writeStatus v p).txbuf = p.txbuf := rfl
@[simp] theorem writeStatus_txlen (v : Word) (p : Spe) : (writeStatus v p).txlen = p.txlen := rfl
@[simp] theorem writeStatus_rxbuf (v : Word) (p : Spe) : (writeStatus v p).rxbuf = p.rxbuf := rfl
@[simp] theorem writeStatus_out (v : Word) (p : Spe) : (writeStatus v p).out = p.out := rfl

/-! ### `requestWritten` -/

@[simp] theorem requestWritten_spe (s : State) : (requestWritten s).spe = { s.spe with engine := .rxHdr } := rfl
@[simp] theorem requestWritten_cfg (s : State) : (requestWritten s).cfg = s.cfg := rfl
@[simp] theorem requestWritten_inbox (s : State) : (requestWritten s).inbox = s.inbox := rfl
@[simp] theorem requestWritten_hostProg (s : State) : (requestWritten s).hostProg = s.hostProg := rfl
@[simp] theorem requestWritten_hostReads (s : State) : (requestWritten s).hostReads = s.hostReads := rfl
@[simp] theorem requestWritten_linkOut (s : State) : (requestWritten s).linkOut = s.linkOut ++ s.spe.pendingFrame := rfl

/-! ### `csrWrite` -/

@[simp] theorem csrWrite_spe (c : Csr) (v : Word) (s : State) : (s.csrWrite c v).spe = writeCsr c v s.spe := rfl
@[simp] theorem csrWrite_cfg (c : Csr) (v : Word) (s : State) : (s.csrWrite c v).cfg = s.cfg := rfl
@[simp] theorem csrWrite_inbox (c : Csr) (v : Word) (s : State) : (s.csrWrite c v).inbox = s.inbox := rfl
@[simp] theorem csrWrite_hostProg (c : Csr) (v : Word) (s : State) : (s.csrWrite c v).hostProg = s.hostProg := rfl
@[simp] theorem csrWrite_hostReads (c : Csr) (v : Word) (s : State) : (s.csrWrite c v).hostReads = s.hostReads := rfl
@[simp] theorem csrWrite_linkOut (c : Csr) (v : Word) (s : State) : (s.csrWrite c v).linkOut = s.linkOut := rfl

/-! ### `csrReadTo` -/

@[simp] theorem csrReadTo_spe (c : Csr) (s : State) : (s.csrReadTo c).spe = s.spe := rfl
@[simp] theorem csrReadTo_cfg (c : Csr) (s : State) : (s.csrReadTo c).cfg = s.cfg := rfl
@[simp] theorem csrReadTo_inbox (c : Csr) (s : State) : (s.csrReadTo c).inbox = s.inbox := rfl
@[simp] theorem csrReadTo_hostProg (c : Csr) (s : State) : (s.csrReadTo c).hostProg = s.hostProg := rfl
@[simp] theorem csrReadTo_hostReads (c : Csr) (s : State) : (s.csrReadTo c).hostReads = (some c, csrRead s.spe c) :: s.hostReads := rfl
@[simp] theorem csrReadTo_linkOut (c : Csr) (s : State) : (s.csrReadTo c).linkOut = s.linkOut := rfl

/-! ### `memRead` -/

@[simp] theorem memRead_spe (a : Word) (s : State) : (s.memRead a).spe = s.spe := rfl
@[simp] theorem memRead_cfg (a : Word) (s : State) : (s.memRead a).cfg = s.cfg := rfl
@[simp] theorem memRead_inbox (a : Word) (s : State) : (s.memRead a).inbox = s.inbox := rfl
@[simp] theorem memRead_hostProg (a : Word) (s : State) : (s.memRead a).hostProg = s.hostProg := rfl
@[simp] theorem memRead_hostReads (a : Word) (s : State) : (s.memRead a).hostReads = (csrAt a, memReadWord s.spe a) :: s.hostReads := rfl
@[simp] theorem memRead_linkOut (a : Word) (s : State) : (s.memRead a).linkOut = s.linkOut := rfl

/-! ### `queue` -/

@[simp] theorem queue_spe (ls : List HostLine) (s : State) : (s.queue ls).spe = s.spe := rfl
@[simp] theorem queue_cfg (ls : List HostLine) (s : State) : (s.queue ls).cfg = s.cfg := rfl
@[simp] theorem queue_inbox (ls : List HostLine) (s : State) : (s.queue ls).inbox = s.inbox := rfl
@[simp] theorem queue_hostProg (ls : List HostLine) (s : State) : (s.queue ls).hostProg = ls ++ s.hostProg := rfl
@[simp] theorem queue_hostReads (ls : List HostLine) (s : State) : (s.queue ls).hostReads = s.hostReads := rfl
@[simp] theorem queue_linkOut (ls : List HostLine) (s : State) : (s.queue ls).linkOut = s.linkOut := rfl

/-! ### `resetSpe` -/

@[simp] theorem resetSpe_spe (s : State) : (s.resetSpe).spe = Spe.reset := rfl
@[simp] theorem resetSpe_cfg (s : State) : (s.resetSpe).cfg = s.cfg := rfl
@[simp] theorem resetSpe_inbox (s : State) : (s.resetSpe).inbox = s.inbox := rfl
@[simp] theorem resetSpe_hostProg (s : State) : (s.resetSpe).hostProg = s.hostProg := rfl
@[simp] theorem resetSpe_hostReads (s : State) : (s.resetSpe).hostReads = s.hostReads := rfl
@[simp] theorem resetSpe_linkOut (s : State) : (s.resetSpe).linkOut = s.linkOut := rfl

end Sys2Proof.Machine
end

