-- ==== Sys2Proof/Laws/Ops.lean ====
section
/-! SUPPORT. What each shared operation can do, said once: later proofs cite these lemmas and do not unfold the
operations. -/

namespace Sys2Proof.Machine

/-! ### Starting a transaction (R76, R77) -/

theorem startTransaction_open {p : Spe} (h : p.linkEn = true) (f : List Byte) (exp : Byte) :
    startTransaction f exp p = { p with
      discardCnt := 0, txbuf := f, txlen := BitVec.ofNat 4 f.length, expType := exp, engine := .send } := by
  simp [startTransaction, h]

theorem startTransaction_closed {p : Spe} (h : p.linkEn = false) (f : List Byte) (exp : Byte) :
    startTransaction f exp p = endCmd .ioError { p with discardCnt := 0 } := by
  simp [startTransaction, h]

theorem startListen_open {p : Spe} (h : p.linkEn = true) (exp : Byte) :
    startListen exp p = { p with discardCnt := 0, expType := exp, engine := .rxHdr } := by
  simp [startListen, h]

theorem startListen_closed {p : Spe} (h : p.linkEn = false) (exp : Byte) :
    startListen exp p = endCmd .ioError { p with discardCnt := 0 } := by
  simp [startListen, h]

/-! ### Issuing a command (R75) -/

theorem issue_busy {p : Spe} (h : p.engine ≠ .idle) (op : BitVec 4) (start : Spe → Spe) :
    issue op start p = { p with ovr := true } := by
  simp [issue, Spe.busy, h]

theorem issue_idle {p : Spe} (h : p.engine = .idle) (op : BitVec 4) (start : Spe → Spe) :
    issue op start p = start (accept op p) := by
  simp [issue, Spe.busy, h]

/-- The start rule of an opcode (R75): what `case L_OP of` selects. -/
def startOf (cfg : Config) (op : BitVec 4) : Spe → Spe :=
  match op.toNat with
  | 1 => startWriteReg cfg
  | 2 => startReadReg cfg
  | 3 => startReadBuf cfg
  | 4 => startReadStream
  | 5 => startPollStatus cfg
  | _ => endCmd .illegalCmd

/-! ### The discard loop (R81) -/

theorem foreign_cases (p : Spe) :
    (p.lCap ≠ 0 ∧ p.lCap ≤ p.discardCnt ∧ foreign p = endCmd .tooManyDiscarded p) ∨
    ((p.lCap = 0 ∨ p.discardCnt < p.lCap) ∧
      foreign p = { p with discardCnt := satInc p.discardCnt, engine := .rxHdr }) := by
  unfold foreign
  by_cases h0 : p.lCap = 0
  · exact .inr ⟨.inl h0, by simp [h0]⟩
  · by_cases hc : p.lCap ≤ p.discardCnt
    · exact .inl ⟨h0, hc, if_pos ⟨h0, hc⟩⟩
    · exact .inr ⟨.inr (BitVec.not_le.mp hc), if_neg (fun h => hc h.2)⟩

/-! ### Finish rules -/

/-- What a status snapshot leads to (R100, R104). -/
theorem judgeStatus_cases (w : Word) (p : Spe) :
    (p.timedOut = true ∧ judgeStatus w p = raiseTimeout true p) ∨
    (p.timedOut = false ∧ hasErrorBit w = true ∧ judgeStatus w p = endCmd .moduleError { p with result := w }) ∨
    (p.timedOut = false ∧ hasErrorBit w = false ∧ meetsWanted w p.lWanted = true ∧
      judgeStatus w p = endCmd .noError p) ∨
    (p.timedOut = false ∧ hasErrorBit w = false ∧ meetsWanted w p.lWanted = false ∧
      judgeStatus w p = { p with engine := .sleep, sleepCnt := pollInterval }) := by
  unfold judgeStatus
  by_cases ht : p.timedOut = true <;> by_cases he : hasErrorBit w = true <;>
    by_cases hw : meetsWanted w p.lWanted = true <;> simp_all

theorem finish_writeReg {p : Spe} (h : p.lOp = 1) (r : List Byte) : finish r p = finishWriteReg r p := by
  simp [finish, h]

theorem finish_readReg {p : Spe} (h : p.lOp = 2) (r : List Byte) : finish r p = finishReadReg r p := by
  simp [finish, h]

theorem finish_readBuf {p : Spe} (h : p.lOp = 3) (r : List Byte) : finish r p = finishReadBuf r p := by
  simp [finish, h]

theorem finish_readStream {p : Spe} (h : p.lOp = 4) (r : List Byte) : finish r p = finishReadStream r p := by
  simp [finish, h]

theorem finish_pollStatus {p : Spe} (h : p.lOp = 5) (r : List Byte) : finish r p = finishPollStatus r p := by
  simp [finish, h]

/-- The five opcodes, or a reserved one (R55). -/
theorem opcode_cases : ∀ n : BitVec 4, n = 1 ∨ n = 2 ∨ n = 3 ∨ n = 4 ∨ n = 5 ∨
    (replyType n = none ∧ n.toNat ≠ 1 ∧ n.toNat ≠ 2 ∧ n.toNat ≠ 3 ∧ n.toNat ≠ 4 ∧ n.toNat ≠ 5) := by decide

theorem finish_reserved {p : Spe} (h : replyType p.lOp = none) (r : List Byte) :
    finish r p = endCmd .illegalCmd p := by
  unfold finish
  rcases opcode_cases p.lOp with h' | h' | h' | h' | h' | ⟨-, h'⟩
  · simp [h', replyType] at h
  · simp [h', replyType] at h
  · simp [h', replyType] at h
  · simp [h', replyType] at h
  · simp [h', replyType] at h
  · split <;> first | rfl | (exfalso; omega)

/-- What the finish rule of the running command can do (R90, R92, R94, R96, R100). -/
theorem finish_cases (r : List Byte) (p : Spe) :
    (∃ k, (k = .noError ∨ k = .protocolMismatch ∨ (k = .illegalCmd ∧ replyType p.lOp = none)) ∧
      finish r p = endCmd k p) ∨
    (p.lOp = 2 ∧ ∃ v, replyValue r = some v ∧ finish r p = endCmd .noError { p with result := v }) ∨
    (p.lOp = 3 ∧ finish r p = endCmd .noError { p with out := r.drop 1, plen := BitVec.ofNat 16 (r.length - 1) }) ∨
    (p.lOp = 4 ∧ finish r p = endCmd .noError { p with out := r, plen := BitVec.ofNat 16 r.length }) ∨
    (p.lOp = 5 ∧ ∃ w, replyValue r = some w ∧
      finish r p = judgeStatus w { p with pollCnt := satInc p.pollCnt }) := by
  rcases opcode_cases p.lOp with h | h | h | h | h | ⟨h, -⟩
  · rw [finish_writeReg h, finishWriteReg]
    split
    · exact .inl ⟨_, .inl rfl, rfl⟩
    · exact .inl ⟨_, .inr (.inl rfl), rfl⟩
  · rw [finish_readReg h, finishReadReg]
    split
    · split
      next v hv => exact .inr (.inl ⟨h, v, hv, rfl⟩)
      next => exact .inl ⟨_, .inr (.inl rfl), rfl⟩
    · exact .inl ⟨_, .inr (.inl rfl), rfl⟩
  · rw [finish_readBuf h, finishReadBuf]
    split
    · exact .inr (.inr (.inl ⟨h, rfl⟩))
    · exact .inl ⟨_, .inr (.inl rfl), rfl⟩
  · exact .inr (.inr (.inr (.inl ⟨h, by rw [finish_readStream h, finishReadStream]⟩)))
  · rw [finish_pollStatus h, finishPollStatus]
    split
    · split
      next w hw => exact .inr (.inr (.inr (.inr ⟨h, w, hw, rfl⟩)))
      next => exact .inl ⟨_, .inr (.inl rfl), rfl⟩
    · exact .inl ⟨_, .inr (.inl rfl), rfl⟩
  · exact .inl ⟨_, .inr (.inr ⟨rfl, h⟩), finish_reserved h r⟩

/-- What the body step does (R80). -/
theorem bodyReceived_cases (b : List Byte) (p : Spe) :
    (decodeBody p.hdrLen b = none ∧ bodyReceived b p = endCmd .framing p) ∨
    (∃ r, decodeBody p.hdrLen b = some r ∧
      ((p.hdrType = p.expType ∧ bodyReceived b p = finish r { p with rxbuf := r }) ∨
       (p.hdrType ≠ p.expType ∧ bodyReceived b p = foreign { p with rxbuf := r }))) := by
  unfold bodyReceived
  cases h : decodeBody p.hdrLen b with
  | none => exact .inl ⟨rfl, rfl⟩
  | some r =>
    refine .inr ⟨r, rfl, ?_⟩
    by_cases ht : p.hdrType = p.expType
    · exact .inl ⟨ht, by simp [ht]⟩
    · exact .inr ⟨ht, by simp [ht]⟩

/-! ### The timer (R101) -/

theorem tick_cases (cfg : Config) (p : Spe) :
    ((p.engine = .idle ∨ p.lOp ≠ 5) ∧ tick cfg p = p) ∨
    (p.lOp = 5 ∧ p.engine.pending = true ∧ tick cfg p = { p with elapsed := satInc p.elapsed }) ∨
    (p.lOp = 5 ∧ p.engine = .sleep ∧ p.sleepCnt - 1 ≠ 0 ∧
      tick cfg p = { p with elapsed := satInc p.elapsed, sleepCnt := p.sleepCnt - 1 }) ∨
    (p.lOp = 5 ∧ p.engine = .sleep ∧ p.sleepCnt - 1 = 0 ∧
      tick cfg p = statusRead cfg { p with elapsed := satInc p.elapsed, sleepCnt := p.sleepCnt - 1 }) := by
  unfold tick
  split
  next hr =>
    split
    next hs =>
      by_cases hz : p.sleepCnt - 1 = 0
      · exact .inr (.inr (.inr ⟨hr.2, hs, hz, if_pos hz⟩))
      · exact .inr (.inr (.inl ⟨hr.2, hs, hz, if_neg hz⟩))
    next hs =>
      refine .inr (.inl ⟨hr.2, ?_, rfl⟩)
      cases he : p.engine <;> simp_all [Engine.pending]
  next hr =>
    refine .inl ⟨?_, rfl⟩
    by_cases hi : p.engine = .idle
    · exact .inl hi
    · exact .inr fun h5 => hr ⟨hi, h5⟩

/-! ### CTRL (R87) -/

theorem writeCtrl_cases (v : Word) (p : Spe) :
    (p.linkEn = true ∧ v.getLsbD 0 = false ∧ p.engine.pending = true ∧
      writeCtrl v p = endCmd .ioError { p with linkEn := false, irqEn := v.getLsbD 1 }) ∨
    ((p.linkEn = false ∨ v.getLsbD 0 = true ∨ p.engine.pending = false) ∧
      writeCtrl v p = { p with linkEn := v.getLsbD 0, irqEn := v.getLsbD 1 }) := by
  unfold writeCtrl
  cases p.linkEn <;> cases v.getLsbD 0 <;> cases p.engine.pending <;> simp

/-! ### Frames -/

theorem writeFrame_next {f : List Byte} {s t : State} (h : writeFrame f s = .next t) :
    s.spe.engine = .send ∧ s.spe.pendingFrame = f ∧ t = requestWritten s := by
  unfold writeFrame at h
  split at h
  next hc => exact ⟨hc.1, hc.2, by cases h; rfl⟩
  next => cases h

theorem writeFrame_pending {f : List Byte} {s : State} (h1 : s.spe.engine = .send) (h2 : s.spe.pendingFrame = f) :
    writeFrame f s = .next (requestWritten s) := by
  simp [writeFrame, h1, h2]

theorem receiveFrame_next {tag type : Byte} {p : List Byte} {term : Byte} {s t : State}
    (h : receiveFrame tag type p term s = .next t) :
    s.spe.engine = .rxBody ∧ s.spe.hdrTag = tag ∧ s.spe.hdrType = type ∧ s.spe.hdrLen.toNat = p.length ∧
      t = { s with spe := bodyReceived (p ++ [term]) s.spe } := by
  unfold receiveFrame at h
  split at h
  next hc => exact ⟨hc.1, hc.2.1, hc.2.2.1, hc.2.2.2, by cases h; rfl⟩
  next => cases h

theorem receiveFrame_pending {tag type : Byte} {p : List Byte} {term : Byte} {s : State}
    (h1 : s.spe.engine = .rxBody) (h2 : s.spe.hdrTag = tag) (h3 : s.spe.hdrType = type)
    (h4 : s.spe.hdrLen.toNat = p.length) :
    receiveFrame tag type p term s = .next { s with spe := bodyReceived (p ++ [term]) s.spe } := by
  simp [receiveFrame, h1, h2, h3, h4]

end Sys2Proof.Machine
end

