-- ==== Sys2Proof/Laws/Step.lean ====
section
/-! SUPPORT. What one event can do to the SPE, said once: `SpeStep` lists the cases, and `takeEvent_cases` says
that every event that answers a next state is one of them. -/

namespace Sys2Proof.Machine

/-- What one event can do to the SPE (R74). -/
inductive SpeStep (cfg : Config) (p : Spe) : Spe → Prop where
  /-- A host read, a wait line, a write that is ignored. -/
  | same : SpeStep cfg p p
  /-- A CMD write while busy (R75). -/
  | overrun (h : p.engine ≠ .idle) : SpeStep cfg p { p with ovr := true }
  /-- An accepted command (R75). -/
  | accepted (h : p.engine = .idle) (op : BitVec 4) : SpeStep cfg p (startOf cfg op (accept op p))
  /-- A write to another CSR (R34). -/
  | written (c : Csr) (hc : c ≠ .cmd) (v : Word) : SpeStep cfg p (writeCsr c v p)
  /-- `WR_OK` (R78). -/
  | sent (h : p.engine = .send) : SpeStep cfg p { p with engine := .rxHdr }
  /-- `RD_DATA` of a header (R79). -/
  | header (h : p.engine = .rxHdr) (tag : Byte) (len : BitVec 16) (type : Byte) :
      SpeStep cfg p (headerReceived tag len type p)
  /-- `RD_DATA` of a body (R80). -/
  | body (h : p.engine = .rxBody) (b : List Byte) (hb : b.length = p.hdrLen.toNat + 1) :
      SpeStep cfg p (bodyReceived b p)
  /-- `RD_TIMEOUT` (R79, R80). -/
  | linkTimeout (h : p.engine = .rxHdr ∨ p.engine = .rxBody) : SpeStep cfg p (raiseTimeout false p)
  /-- `WR_IOERR`, `RD_IOERR` (R78 to R80). -/
  | linkError (h : p.engine.pending = true) : SpeStep cfg p (endCmd .ioError p)
  /-- `tick` (R101). -/
  | ticked : SpeStep cfg p (tick cfg p)
  /-- `reset` (R128). -/
  | reset : SpeStep cfg p Spe.reset

/-- A state reached by an SPE step with the environment's plan as given: configuration and inbox are kept. -/
def StepsTo (s t : State) : Prop := t.cfg = s.cfg ∧ t.inbox = s.inbox ∧ SpeStep s.cfg s.spe t.spe

theorem issueCommand_stepsTo (op : BitVec 4) (start : Spe → Spe) {s t : State} (hs : start = startOf s.cfg op)
    (h : issueCommand op start s = .next t) : StepsTo s t := by
  obtain rfl : ({ s with spe := issue op start s.spe } : State) = t := by
    unfold issueCommand at h; injection h
  refine ⟨rfl, rfl, ?_⟩
  by_cases hi : s.spe.engine = .idle
  · show SpeStep s.cfg s.spe (issue op start s.spe)
    rw [issue_idle hi, hs]; exact .accepted hi op
  · show SpeStep s.cfg s.spe (issue op start s.spe)
    rw [issue_busy hi]; exact .overrun hi

theorem writeFrame_stepsTo {f : List Byte} {s t : State} (h : writeFrame f s = .next t) : StepsTo s t := by
  obtain ⟨h1, -, rfl⟩ := writeFrame_next h
  exact ⟨rfl, rfl, .sent h1⟩

theorem receiveFrame_stepsTo {tag type : Byte} {p : List Byte} {term : Byte} {s t : State}
    (h : receiveFrame tag type p term s = .next t) : StepsTo s t := by
  obtain ⟨h1, -, -, h4, rfl⟩ := receiveFrame_next h
  exact ⟨rfl, rfl, .body h1 _ (by simp [h4])⟩

theorem plainLine_stepsTo {l : HostLine} (hl : ∀ v, l ≠ .csrw .cmd v) (s s' : State)
    (h1 : s'.cfg = s.cfg) (h2 : s'.inbox = s.inbox) (h3 : s'.spe = s.spe) : StepsTo s (plainLine l s') := by
  have same : ∀ t : State, t.cfg = s'.cfg → t.inbox = s'.inbox → t.spe = s'.spe → StepsTo s t :=
    fun t a b c => ⟨a.trans h1, b.trans h2, by rw [c, h3]; exact .same⟩
  cases l with
  | csrw c v => exact ⟨h1, h2, by
      simp only [plainLine, csrWrite_spe, h3]
      exact .written c (fun e => hl v (e ▸ rfl)) v⟩
  | csrr c => exact same _ rfl rfl rfl
  | waitNotBusy => simp only [plainLine]; split <;> exact same _ rfl rfl rfl
  | waitIrq => simp only [plainLine]; split <;> exact same _ rfl rfl rfl
  | readPayload => exact same _ rfl rfl rfl
  | run i => exact same _ rfl rfl rfl

/-- What an instruction that answers a next state does to the SPE, row by row. -/
theorem exec_stepsTo {i : Instr} {s t : State} (h : exec i s = .next t) : StepsTo s t := by
  have macro1 : ∀ (c : Csr) (v : Word) (rest : List HostLine), c ≠ .cmd →
      StepsTo s (beginMacro (.csrw c v :: rest) s) :=
    fun c v rest hc => plainLine_stepsTo (l := .csrw c v) (fun w e => hc (by injection e)) s _ rfl rfl rfl
  cases i with
  | writeReg ign => exact issueCommand_stepsTo 1 _ rfl h
  | readReg ign => exact issueCommand_stepsTo 2 _ rfl h
  | readBuf ign => exact issueCommand_stepsTo 3 _ rfl h
  | readStream ign => exact issueCommand_stepsTo 4 _ rfl h
  | pollStatus ign => exact issueCommand_stepsTo 5 _ rfl h
  | illegal0 ign => exact issueCommand_stepsTo 0 _ rfl h
  | illegal67 lo ign =>
    have : ∀ b : BitVec 1, endCmd .illegalCmd = startOf s.cfg (0b011#3 ++ b) := by
      intro b; rcases (by decide : ∀ b : BitVec 1, b = 0 ∨ b = 1) b with rfl | rfl <;> rfl
    exact issueCommand_stepsTo _ _ (this lo) h
  | illegal8F lo ign =>
    have : ∀ b : BitVec 3, endCmd .illegalCmd = startOf s.cfg (0b1#1 ++ b) := by
      intro b
      rcases (by decide : ∀ b : BitVec 3, b = 0 ∨ b = 1 ∨ b = 2 ∨ b = 3 ∨ b = 4 ∨ b = 5 ∨ b = 6 ∨ b = 7) b with
        rfl | rfl | rfl | rfl | rfl | rfl | rfl | rfl <;> rfl
    exact issueCommand_stepsTo _ _ (this lo) h
  | reqWrite a v => exact writeFrame_stepsTo h
  | reqRead a => exact writeFrame_stepsTo h
  | reqBuf o => exact writeFrame_stepsTo h
  | reqWriteAlt a v => exact writeFrame_stepsTo h
  | reqReadAlt a => exact writeFrame_stepsTo h
  | reqBufAlt o => exact writeFrame_stepsTo h
  | rspWriteAck tag p term => exact receiveFrame_stepsTo h
  | rspReadReply tag p term => exact receiveFrame_stepsTo h
  | rspBufReply tag p term => exact receiveFrame_stepsTo h
  | rspStreamPush tag p term => exact receiveFrame_stepsTo h
  | doWriteReg a v => injection h with h; subst h; exact macro1 _ _ _ (by decide)
  | doReadReg a => injection h with h; subst h; exact macro1 _ _ _ (by decide)
  | doReadBuf o => injection h with h; subst h; exact macro1 _ _ _ (by decide)
  | doPoll w t => injection h with h; subst h; exact macro1 _ _ _ (by decide)
  | waitStart => injection h with h; subst h; exact macro1 _ _ _ (by decide)
  | waitData t => injection h with h; subst h; exact macro1 _ _ _ (by decide)
  | waitDone =>
    injection h with h; subst h
    exact plainLine_stepsTo (l := .waitNotBusy) (fun _ e => by cases e) s _ rfl rfl rfl

theorem hostWrite_stepsTo {a v : Word} {s t : State} (h : hostWrite a v s = .next t) : StepsTo s t := by
  unfold hostWrite at h
  split at h
  · exact exec_stepsTo h
  next c hc _ =>
    injection h with h; subst h
    refine ⟨rfl, rfl, ?_⟩
    by_cases hcmd : c = .cmd
    · subst hcmd; exact .same
    · exact .written c hcmd v
  · injection h with h; subst h; exact ⟨rfl, rfl, .same⟩

theorem hostTurn_stepsTo {s t : State} (h : hostTurn s = .next t) : StepsTo s t := by
  unfold hostTurn at h
  split at h
  · cases h
  next c v rest _ =>
    exact hostWrite_stepsTo (s := { s with hostProg := rest }) h
  next i rest _ =>
    split at h
    · exact exec_stepsTo (s := { s with hostProg := rest }) h
    · cases h
  next l rest hw _ _ =>
    injection h with h; subst h
    exact plainLine_stepsTo (fun v e => hw _ v e) s _ rfl rfl rfl

theorem linkAnswer_stepsTo {ans : LinkAnswer} {s t : State} (h : linkAnswer ans s = .next t) : StepsTo s t := by
  unfold linkAnswer at h
  cases he : s.spe.engine with
  | idle => rw [he] at h; cases h
  | sleep => rw [he] at h; cases h
  | send =>
    rw [he] at h
    change answerSend ans s = _ at h
    cases ans with
    | wrOk =>
      simp only [answerSend] at h
      split at h
      · exact exec_stepsTo h
      · injection h with h; subst h; exact ⟨rfl, rfl, .sent he⟩
    | wrIoErr => injection h with h; subst h; exact ⟨rfl, rfl, .linkError (by simp [he, Engine.pending])⟩
    | rdData b => cases h
    | rdTimeout => cases h
    | rdIoErr => cases h
  | rxHdr =>
    rw [he] at h
    change answerHeader ans s = _ at h
    cases ans with
    | rdData b =>
      simp only [answerHeader] at h
      split at h
      next tag len type _ => injection h with h; subst h; exact ⟨rfl, rfl, .header he tag len type⟩
      · cases h
    | rdTimeout => injection h with h; subst h; exact ⟨rfl, rfl, .linkTimeout (.inl he)⟩
    | rdIoErr => injection h with h; subst h; exact ⟨rfl, rfl, .linkError (by simp [he, Engine.pending])⟩
    | wrOk => cases h
    | wrIoErr => cases h
  | rxBody =>
    rw [he] at h
    change answerBody ans s = _ at h
    cases ans with
    | rdData b =>
      simp only [answerBody] at h
      split at h
      next hb =>
        split at h
        · exact exec_stepsTo h
        · injection h with h; subst h; exact ⟨rfl, rfl, .body he b hb⟩
      · cases h
    | rdTimeout => injection h with h; subst h; exact ⟨rfl, rfl, .linkTimeout (.inr he)⟩
    | rdIoErr => injection h with h; subst h; exact ⟨rfl, rfl, .linkError (by simp [he, Engine.pending])⟩
    | wrOk => cases h
    | wrIoErr => cases h

/-- What an event that is taken does to the SPE (R74). -/
theorem takeEvent_stepsTo {e : Event} {s t : State} (h : takeEvent e s = .next t) : StepsTo s t := by
  cases e with
  | memWrite a v => exact hostWrite_stepsTo h
  | memRead a => injection h with h; subst h; exact ⟨rfl, rfl, .same⟩
  | hostLine => exact hostTurn_stepsTo h
  | link ans => exact linkAnswer_stepsTo h
  | tick => injection h with h; subst h; exact ⟨rfl, rfl, .ticked⟩
  | reset => injection h with h; subst h; exact ⟨rfl, rfl, .reset⟩

/-- A step either waits, with nothing in the inbox, or takes the event at its head. -/
theorem step_next_cases {s t : State} (h : step s = .next t) :
    (s.inbox = [] ∧ t = s) ∨
    ∃ e rest, s.inbox = e :: rest ∧ takeEvent e { s with inbox := rest } = .next t := by
  unfold step stepInbox at h
  split at h
  next hi => injection h with h; exact .inl ⟨hi, h.symm⟩
  next e rest hi => exact .inr ⟨e, rest, hi, h⟩

/-- What a step does to the SPE; the configuration is never changed. -/
theorem step_speStep {s t : State} (h : step s = .next t) : t.cfg = s.cfg ∧ SpeStep s.cfg s.spe t.spe := by
  rcases step_next_cases h with ⟨-, rfl⟩ | ⟨e, rest, -, he⟩
  · exact ⟨rfl, .same⟩
  · exact ⟨(takeEvent_stepsTo he).1, (takeEvent_stepsTo he).2.2⟩

end Sys2Proof.Machine
end

