-- ==== Sys2Proof/Laws/Decode.lean ====
section
/-! SUPPORT. What decoding gives, said once: the cases of a command word (R54, R55) and of the two frame decoders,
and that encoding gives each code back. -/

namespace Sys2Proof.Machine

/-! ### Command words -/

theorem extract_low1 (w : Word) : w.extractLsb' 0 1 = (w.extractLsb' 0 4).extractLsb' 0 1 := by
  ext i hi; simp [← BitVec.getLsbD_eq_getElem, BitVec.getLsbD_extractLsb']

theorem extract_low3 (w : Word) : w.extractLsb' 0 3 = (w.extractLsb' 0 4).extractLsb' 0 3 := by
  ext i hi
  simp [← BitVec.getLsbD_eq_getElem, BitVec.getLsbD_extractLsb']

/-- A word is its ignored bits and its opcode (R54). -/
theorem word_join (w : Word) : w.extractLsb' 4 28 ++ w.extractLsb' 0 4 = w := by
  ext i hi
  simp only [← BitVec.getLsbD_eq_getElem, BitVec.getLsbD_append, BitVec.getLsbD_extractLsb']
  by_cases h : i < 4
  · simp [h]
  · simp [h, show i - 4 < 28 by omega, show 4 + (i - 4) = i by omega]

/-- The opcode and the instruction of a command word, row by row (R55). -/
theorem decodeCmd_cases (w : Word) :
    (w.extractLsb' 0 4 = 0 ∧ decodeCmd w = .illegal0 (w.extractLsb' 4 28)) ∨
    (w.extractLsb' 0 4 = 1 ∧ decodeCmd w = .writeReg (w.extractLsb' 4 28)) ∨
    (w.extractLsb' 0 4 = 2 ∧ decodeCmd w = .readReg (w.extractLsb' 4 28)) ∨
    (w.extractLsb' 0 4 = 3 ∧ decodeCmd w = .readBuf (w.extractLsb' 4 28)) ∨
    (w.extractLsb' 0 4 = 4 ∧ decodeCmd w = .readStream (w.extractLsb' 4 28)) ∨
    (w.extractLsb' 0 4 = 5 ∧ decodeCmd w = .pollStatus (w.extractLsb' 4 28)) ∨
    (∃ lo, w.extractLsb' 0 4 = 0b011#3 ++ lo ∧ decodeCmd w = .illegal67 lo (w.extractLsb' 4 28)) ∨
    (∃ lo, w.extractLsb' 0 4 = 0b1#1 ++ lo ∧ decodeCmd w = .illegal8F lo (w.extractLsb' 4 28)) := by
  have h67 : ∀ op : BitVec 4, (op.toNat = 6 ∨ op.toNat = 7) → op = 0b011#3 ++ op.extractLsb' 0 1 := by decide
  have h8 : ∀ op : BitVec 4, op.toNat ≠ 0 ∧ op.toNat ≠ 1 ∧ op.toNat ≠ 2 ∧ op.toNat ≠ 3 ∧ op.toNat ≠ 4 ∧
      op.toNat ≠ 5 ∧ op.toNat ≠ 6 ∧ op.toNat ≠ 7 → op = 0b1#1 ++ op.extractLsb' 0 3 := by decide
  have lit : ∀ n m : BitVec 4, n.toNat = m.toNat → n = m := fun _ _ => BitVec.eq_of_toNat_eq
  unfold decodeCmd
  simp only [extract_low1, extract_low3]
  generalize w.extractLsb' 0 4 = op
  split
  next h => exact .inl ⟨lit _ 0 h, rfl⟩
  next h => exact .inr (.inl ⟨lit _ 1 h, rfl⟩)
  next h => exact .inr (.inr (.inl ⟨lit _ 2 h, rfl⟩))
  next h => exact .inr (.inr (.inr (.inl ⟨lit _ 3 h, rfl⟩)))
  next h => exact .inr (.inr (.inr (.inr (.inl ⟨lit _ 4 h, rfl⟩))))
  next h => exact .inr (.inr (.inr (.inr (.inr (.inl ⟨lit _ 5 h, rfl⟩)))))
  next h => exact .inr (.inr (.inr (.inr (.inr (.inr (.inl ⟨_, h67 _ (.inl h), rfl⟩))))))
  next h => exact .inr (.inr (.inr (.inr (.inr (.inr (.inl ⟨_, h67 _ (.inr h), rfl⟩))))))
  next n0 n1 n2 n3 n4 n5 n6 n7 =>
    exact .inr (.inr (.inr (.inr (.inr (.inr (.inr ⟨_, h8 _ ⟨n0, n1, n2, n3, n4, n5, n6, n7⟩, rfl⟩))))))

/-- A word written to CMD issues the command of its low four bits, whatever the others are (R54, R75). -/
theorem exec_decodeCmd (w : Word) (s : State) :
    exec (decodeCmd w) s = issueCommand (w.extractLsb' 0 4) (startOf s.cfg (w.extractLsb' 0 4)) s := by
  rcases decodeCmd_cases w with ⟨h, e⟩ | ⟨h, e⟩ | ⟨h, e⟩ | ⟨h, e⟩ | ⟨h, e⟩ | ⟨h, e⟩ | ⟨lo, h, e⟩ | ⟨lo, h, e⟩
  all_goals rw [e, h]
  all_goals try rfl
  · rcases (by decide : ∀ b : BitVec 1, b = 0 ∨ b = 1) lo with rfl | rfl <;> rfl
  · rcases (by decide : ∀ b : BitVec 3, b = 0 ∨ b = 1 ∨ b = 2 ∨ b = 3 ∨ b = 4 ∨ b = 5 ∨ b = 6 ∨ b = 7) lo with
      rfl | rfl | rfl | rfl | rfl | rfl | rfl | rfl <;> rfl

/-- A CMD write while busy only sets OVR (R75). -/
theorem exec_decodeCmd_busy (w : Word) {s : State} (h : s.spe.engine ≠ .idle) :
    exec (decodeCmd w) s = .next { s with spe := { s.spe with ovr := true } } := by
  rw [exec_decodeCmd, issueCommand, issue_busy h]

/-- A CMD write in IDLE is accepted (R75). -/
theorem exec_decodeCmd_idle (w : Word) {s : State} (h : s.spe.engine = .idle) :
    exec (decodeCmd w) s = .next { s with
      spe := startOf s.cfg (w.extractLsb' 0 4) (accept (w.extractLsb' 0 4) s.spe) } := by
  rw [exec_decodeCmd, issueCommand, issue_idle h]

/-! ### Addresses -/

/-- The offset of a CSR selects it (R18, R34). -/
theorem csrAt_csrOffset (c : Csr) : csrAt (csrOffset c) = some c := by
  cases c with
  | payload k =>
    have h16 : (csrOffset (.payload k)).getLsbD 16 = true := by simp [csrOffset]
    have hk : (csrOffset (.payload k)).extractLsb' 2 14 = k := by
      ext i hi
      have h0 : (65536#32).getLsbD (2 + i) = false :=
        (by decide : ∀ j : Fin 14, (65536#32).getLsbD (2 + j.val) = false) ⟨i, hi⟩
      rw [show csrOffset (.payload k) = 65536#32 ||| (k.setWidth 32 <<< 2) from rfl,
        ← BitVec.getLsbD_eq_getElem, ← BitVec.getLsbD_eq_getElem, BitVec.getLsbD_extractLsb', BitVec.getLsbD_or,
        h0, BitVec.getLsbD_shiftLeft, BitVec.getLsbD_setWidth]
      simp [hi, show 2 + i < 32 by omega, show i < 32 by omega, show ¬ 2 + i ≤ 1 by omega]
    simp only [csrAt, h16, hk, if_true]
  | _ => rfl

end Sys2Proof.Machine
end

