-- ==== Sys2Proof/Laws/PerInstr.lean ====
section
/-! SUPPORT. A law of every instruction, one lemma per row of the table: a frame says its own length. -/

namespace Sys2Proof.Laws.FramesSelfDelimit

open Sys2Proof Sys2Proof.Machine

/-- The length that the second and third byte of a frame announce is that of the bytes between the header and the
last byte (R56, R57). -/
def saysItsLength (bs : List Byte) : Prop := bs.length = 4 + (u16le (bs.getD 1 0) (bs.getD 2 0)).toNat + 1

/-- A well-formed instruction that is a frame says its length; a request frame begins with 0xCC and ends with 0xCD
(R56, R57, R62). Command words and host lines are no frames. -/
def Statement (i : Instr) : Prop := i.wf = true →
  (∀ bs, encode i = .txFrame bs → saysItsLength bs ∧ bs.head? = some 0xCC ∧ bs.getLast? = some 0xCD) ∧
  (∀ bs, encode i = .rxFrame bs → saysItsLength bs)

theorem of_word {i : Instr} {w : Word} (h : encode i = .cmdWord w) : Statement i :=
  fun _ => ⟨fun _ h' => (by rw [h] at h'; cases h'), fun _ h' => (by rw [h] at h'; cases h')⟩

theorem of_lines {i : Instr} {ls : List HostLine} (h : encode i = .lines ls) : Statement i :=
  fun _ => ⟨fun _ h' => (by rw [h] at h'; cases h'), fun _ h' => (by rw [h] at h'; cases h')⟩

theorem of_request {i : Instr} {bs : List Byte} (h : encode i = .txFrame bs) (hl : saysItsLength bs)
    (hh : bs.head? = some 0xCC) (ht : bs.getLast? = some 0xCD) : Statement i :=
  fun _ => ⟨fun _ h' => (by rw [h] at h'; cases h'; exact ⟨hl, hh, ht⟩), fun _ h' => (by rw [h] at h'; cases h')⟩

/-- A received frame with a payload that fits says its length. -/
theorem responseBytes_saysItsLength {p : List Byte} (hp : payloadFits p = true) (tag type term : Byte) :
    saysItsLength (responseBytes tag type p term) := by
  have hlen : p.length ≤ 65535 := by simpa [payloadFits] using hp
  have hu : u16le ((BitVec.ofNat 16 p.length).extractLsb' 0 8) ((BitVec.ofNat 16 p.length).extractLsb' 8 8) =
      BitVec.ofNat 16 p.length := u16le_of_le16 _
  have hb : (responseBytes tag type p term).length = 4 + p.length + 1 := by
    simp [responseBytes, le16]; omega
  show (responseBytes tag type p term).length =
    4 + (u16le ((BitVec.ofNat 16 p.length).extractLsb' 0 8) ((BitVec.ofNat 16 p.length).extractLsb' 8 8)).toNat + 1
  rw [hu, hb, BitVec.toNat_ofNat, Nat.mod_eq_of_lt (by omega)]

theorem of_response {i : Instr} {tag type term : Byte} {p : List Byte}
    (h : encode i = .rxFrame (responseBytes tag type p term)) (hw : i.wf = payloadFits p) : Statement i :=
  fun wf => ⟨fun _ h' => (by rw [h] at h'; cases h'),
    fun _ h' => (by rw [h] at h'; cases h'; exact responseBytes_saysItsLength (hw ▸ wf) tag type term)⟩

theorem writeReg (ign : BitVec 28) : Statement (.writeReg ign) := of_word rfl
theorem readReg (ign : BitVec 28) : Statement (.readReg ign) := of_word rfl
theorem readBuf (ign : BitVec 28) : Statement (.readBuf ign) := of_word rfl
theorem readStream (ign : BitVec 28) : Statement (.readStream ign) := of_word rfl
theorem pollStatus (ign : BitVec 28) : Statement (.pollStatus ign) := of_word rfl
theorem illegal0 (ign : BitVec 28) : Statement (.illegal0 ign) := of_word rfl
theorem illegal67 (lo : BitVec 1) (ign : BitVec 28) : Statement (.illegal67 lo ign) := of_word rfl
theorem illegal8F (lo : BitVec 3) (ign : BitVec 28) : Statement (.illegal8F lo ign) := of_word rfl

theorem reqWrite (a : Byte) (v : Word) : Statement (.reqWrite a v) := of_request rfl (by simp [saysItsLength, u16le]) rfl rfl
theorem reqRead (a : Byte) : Statement (.reqRead a) := of_request rfl (by simp [saysItsLength, u16le]) rfl rfl
theorem reqBuf (o : BitVec 16) : Statement (.reqBuf o) := of_request rfl (by simp [saysItsLength, u16le]) rfl rfl
theorem reqWriteAlt (a : Byte) (v : Word) : Statement (.reqWriteAlt a v) := of_request rfl (by simp [saysItsLength, u16le]) rfl rfl
theorem reqReadAlt (a : Byte) : Statement (.reqReadAlt a) := of_request rfl (by simp [saysItsLength, u16le]) rfl rfl
theorem reqBufAlt (o : BitVec 16) : Statement (.reqBufAlt o) := of_request rfl (by simp [saysItsLength, u16le]) rfl rfl

theorem rspWriteAck (tag : Byte) (p : List Byte) (term : Byte) : Statement (.rspWriteAck tag p term) :=
  of_response rfl rfl
theorem rspReadReply (tag : Byte) (p : List Byte) (term : Byte) : Statement (.rspReadReply tag p term) :=
  of_response rfl rfl
theorem rspBufReply (tag : Byte) (p : List Byte) (term : Byte) : Statement (.rspBufReply tag p term) :=
  of_response rfl rfl
theorem rspStreamPush (tag : Byte) (p : List Byte) (term : Byte) : Statement (.rspStreamPush tag p term) :=
  of_response rfl rfl

theorem doWriteReg (a v : Word) : Statement (.doWriteReg a v) := of_lines rfl
theorem doReadReg (a : Word) : Statement (.doReadReg a) := of_lines rfl
theorem doReadBuf (o : Word) : Statement (.doReadBuf o) := of_lines rfl
theorem doPoll (w t : Word) : Statement (.doPoll w t) := of_lines rfl
theorem waitStart : Statement .waitStart := of_lines rfl
theorem waitData (t : Word) : Statement (.waitData t) := of_lines rfl
theorem waitDone : Statement .waitDone := of_lines rfl

end Sys2Proof.Laws.FramesSelfDelimit
end

