-- ==== Sys2Proof/Tests/Slice0.lean ====
section
/-! SUPPORT. Tests and witnesses. Expected values come from the rules of spec/ and from the vectors of
95_test_vectors.md (named V-..., L1...), never from the model. -/

namespace Sys2Proof.Tests

open Sys2Proof Sys2Proof.Machine

/-! ### Small states -/

/-- IDLE, transport open (the vectors' default). -/
def opened : State := { State.reset with spe := { Spe.reset with linkEn := true } }

/-- A command `op` running in `e` that waits for replies of type `exp`. -/
def running (e : Engine) (op : BitVec 4) (exp : Byte) : State :=
  { opened with spe := { opened.spe with engine := e, cmdOp := op, lOp := op, expType := exp } }

/-- SEND with the frame `f` pending. -/
def sending (op : BitVec 4) (exp : Byte) (f : List Byte) : State :=
  { opened with spe := { (running .send op exp).spe with txbuf := f, txlen := BitVec.ofNat 4 f.length } }

/-- RX_BODY of a frame with tag 0xCC, for a command whose address is 0x10. -/
def receiving (op : BitVec 4) (exp : Byte) (len : BitVec 16) (type : Byte) : State :=
  { opened with spe := headerReceived 0xCC len type { (running .rxHdr op exp).spe with lAddr := 0x10 } }

/-- POLL_STATUS in RX_BODY of a 5-byte read-reply, with its wanted bits, its limit and the ticks counted so far. -/
def polling (wanted maxTime elapsed : Word) : State :=
  let s := receiving 5 0xF6 5 0xF6
  { s with spe := { s.spe with lWanted := wanted, lMaxTime := maxTime, elapsed := elapsed } }

/-- POLL_STATUS in SLEEP. -/
def sleeping (left : BitVec 8) : State :=
  { opened with spe := { (running .sleep 5 0xF6).spe with sleepCnt := left } }

/-- A field of the next state. -/
def seen {α : Type} (f : Spe → α) (o : Host.Outcome State Fault Refusal) : Option α := (nextOf o).map (fun t => f t.spe)

/-- The state of the engine, ERR.CODE and DONE after an event. -/
def endSeen (o : Host.Outcome State Fault Refusal) : Option (Engine × ErrKind × Bool) :=
  seen (fun p => (p.engine, p.errCode, p.done)) o

/-! ### WellFormed: a payload of 65536 bytes has no 16-bit length (R56) -/

theorem test_wf_refuses_writeAck (t e : Byte) : (Instr.rspWriteAck t (List.replicate 65536 0) e).wf = false := by
  simp only [Instr.wf, payloadFits, List.length_replicate]; decide
theorem test_wf_refuses_readReply (t e : Byte) : (Instr.rspReadReply t (List.replicate 65536 0) e).wf = false := by
  simp only [Instr.wf, payloadFits, List.length_replicate]; decide
theorem test_wf_refuses_bufReply (t e : Byte) : (Instr.rspBufReply t (List.replicate 65536 0) e).wf = false := by
  simp only [Instr.wf, payloadFits, List.length_replicate]; decide
theorem test_wf_refuses_streamPush (t e : Byte) : (Instr.rspStreamPush t (List.replicate 65536 0) e).wf = false := by
  simp only [Instr.wf, payloadFits, List.length_replicate]; decide
theorem test_wf_takes_longest (t e : Byte) : (Instr.rspStreamPush t (List.replicate 65535 0) e).wf = true := by
  simp only [Instr.wf, payloadFits, List.length_replicate]; decide

/-! ### Decoding: a code of every row, written out from R54, R55, R62, R63 and R67 -/

theorem test_decode_writeReg : decode (.cmdWord 0x00000001) = .ok (.writeReg 0) := rfl
/-- V-TE-12: bits 31:4 are ignored. -/
theorem test_decode_readReg : decode (.cmdWord 0x00000012) = .ok (.readReg 1) := rfl
theorem test_decode_readBuf : decode (.cmdWord 0xFFFFFFF3) = .ok (.readBuf 0xFFFFFFF) := rfl
theorem test_decode_readStream : decode (.cmdWord 0x00000004) = .ok (.readStream 0) := rfl
theorem test_decode_pollStatus : decode (.cmdWord 0x00000005) = .ok (.pollStatus 0) := rfl
theorem test_decode_illegal0 : decode (.cmdWord 0x00000010) = .ok (.illegal0 1) := rfl
theorem test_decode_illegal67 : decode (.cmdWord 0x00000006) = .ok (.illegal67 0 0) ∧
    decode (.cmdWord 0x00000007) = .ok (.illegal67 1 0) := ⟨rfl, rfl⟩
theorem test_decode_illegal8F : decode (.cmdWord 0x00000008) = .ok (.illegal8F 0 0) ∧
    decode (.cmdWord 0x0000000F) = .ok (.illegal8F 7 0) := ⟨rfl, rfl⟩
/-- V-FR-2. -/
theorem test_decode_reqWrite :
    decode (.txFrame [0xCC, 0x06, 0x00, 0xF9, 0x05, 0x23, 0xE8, 0x03, 0x00, 0x00, 0xCD]) = .ok (.reqWrite 0x23 1000) := rfl
/-- V-FR-1. -/
theorem test_decode_reqRead : decode (.txFrame [0xCC, 0x02, 0x00, 0xF8, 0x01, 0x06, 0xCD]) = .ok (.reqRead 0x06) := rfl
/-- V-FR-3. -/
theorem test_decode_reqBuf :
    decode (.txFrame [0xCC, 0x04, 0x00, 0xFA, 0x03, 0xE8, 0x34, 0x12, 0xCD]) = .ok (.reqBuf 0x1234) := rfl
/-- V-FR-5, as the next two. -/
theorem test_decode_reqWriteAlt :
    decode (.txFrame [0xCC, 0x05, 0x00, 0xF9, 0x23, 0xE8, 0x03, 0x00, 0x00, 0xCD]) = .ok (.reqWriteAlt 0x23 1000) := rfl
theorem test_decode_reqReadAlt : decode (.txFrame [0xCC, 0x01, 0x00, 0xF8, 0x06, 0xCD]) = .ok (.reqReadAlt 0x06) := rfl
theorem test_decode_reqBufAlt :
    decode (.txFrame [0xCC, 0x03, 0x00, 0xFA, 0xE8, 0x34, 0x12, 0xCD]) = .ok (.reqBufAlt 0x1234) := rfl
/-- V-RA-1. -/
theorem test_decode_rspWriteAck :
    decode (.rxFrame [0xCC, 0x01, 0x00, 0xF5, 0x23, 0xCD]) = .ok (.rspWriteAck 0xCC [0x23] 0xCD) := rfl
/-- V-TE-10: the tag is not checked. -/
theorem test_decode_rspReadReply :
    decode (.rxFrame [0xAA, 0x05, 0x00, 0xF6, 0x10, 0x01, 0x00, 0x00, 0x00, 0xCD]) =
      .ok (.rspReadReply 0xAA [0x10, 0x01, 0x00, 0x00, 0x00] 0xCD) := rfl
/-- V-RA-12. -/
theorem test_decode_rspBufReply :
    decode (.rxFrame [0xCC, 0x02, 0x00, 0xF7, 0xE8, 0xCD, 0xCD]) = .ok (.rspBufReply 0xCC [0xE8, 0xCD] 0xCD) := rfl
/-- V-RA-13. -/
theorem test_decode_rspStreamPush :
    decode (.rxFrame [0xCC, 0x02, 0x00, 0xFE, 0x11, 0x22, 0xCD]) = .ok (.rspStreamPush 0xCC [0x11, 0x22] 0xCD) := rfl
theorem test_decode_doWriteReg : decode (.lines [.csrw .addr 0x03, .csrw .wdata 0x3, .csrw .cmd 0x1,
    .waitNotBusy, .csrr .err, .csrw .status 0x2]) = .ok (.doWriteReg 0x03 0x3) := rfl
theorem test_decode_doReadReg : decode (.lines [.csrw .addr 0x10, .csrw .cmd 0x2,
    .waitNotBusy, .csrr .err, .csrw .status 0x2, .csrr .result]) = .ok (.doReadReg 0x10) := rfl
theorem test_decode_doReadBuf : decode (.lines [.csrw .offset 0x100, .csrw .cmd 0x3,
    .waitNotBusy, .csrr .err, .csrw .status 0x2, .readPayload]) = .ok (.doReadBuf 0x100) := rfl
theorem test_decode_doPoll : decode (.lines [.csrw .wanted 0x100, .csrw .maxTime 2000, .csrw .cmd 0x5,
    .waitNotBusy, .csrr .err, .csrw .status 0x2]) = .ok (.doPoll 0x100 2000) := rfl
/-- R109: WAIT_START's lines are those of POLL 0x3, 3000. -/
theorem test_decode_waitStart : encode .waitStart = .lines [.csrw .wanted 0x3, .csrw .maxTime 3000, .csrw .cmd 0x5,
    .waitNotBusy, .csrr .err, .csrw .status 0x2] ∧ decode (encode .waitStart) = .ok (.doPoll 0x3 3000) := ⟨rfl, rfl⟩
/-- R110: WAIT_DATA's lines are those of POLL 0x100, t. -/
theorem test_decode_waitData : encode (.waitData 7) = .lines [.csrw .wanted 0x100, .csrw .maxTime 7, .csrw .cmd 0x5,
    .waitNotBusy, .csrr .err, .csrw .status 0x2] ∧ decode (encode (.waitData 7)) = .ok (.doPoll 0x100 7) := ⟨rfl, rfl⟩
theorem test_decode_waitDone : decode (.lines [.waitNotBusy, .csrr .err, .csrw .status 0x2]) = .ok .waitDone := rfl

/-! Rejections, by name. -/

theorem test_reject_lead : decode (.txFrame [0xCD, 0x02, 0x00, 0xF8, 0x01, 0x06, 0xCD]) = .error .wrongLead := rfl
theorem test_reject_terminator :
    decode (.txFrame [0xCC, 0x02, 0x00, 0xF8, 0x01, 0x06, 0xCC]) = .error .wrongTerminator := rfl
theorem test_reject_size : decode (.txFrame []) = .error .wrongSize ∧
    decode (.rxFrame [0xCC, 0x02, 0x00, 0xFE, 0x11, 0xCD]) = .error .wrongSize := ⟨rfl, rfl⟩
theorem test_reject_type : decode (.rxFrame [0xCC, 0x00, 0x00, 0x42, 0xCD]) = .error .unknownType := rfl
theorem test_reject_lines : decode (.lines [.waitNotBusy]) = .error .wrongExpansion := rfl

/-! ### Framer vectors -/

/-- V-FR-4: an empty body. -/
theorem test_framer_empty_body : encodeRequest true 0xF8 0x01 [] = some [0xCC, 0x01, 0x00, 0xF8, 0x01, 0xCD] := rfl
/-- V-FR-6, V-FR-7. -/
theorem test_framer_header : decodeHeader [0xAA, 0x00, 0x01, 0xF7] = some (0xAA, 256, 0xF7) ∧
    decodeHeader [0x00, 0xFF, 0xFF, 0x00] = some (0x00, 65535, 0x00) := by decide
/-- V-FR-8 to V-FR-11. -/
theorem test_framer_body : decodeBody 0 [0xCD] = some [] ∧ decodeBody 0 [0x00] = none ∧
    decodeBody 2 [0xCD, 0xCD, 0xCD] = some [0xCD, 0xCD] ∧ decodeBody 2 [0xCD, 0xCC, 0xCC] = none := by decide

/-! ### Commands (R75, R89, R91, R93, R95, R99, R112) -/

/-- V-RA-1's request. -/
theorem test_writeReg : seen Spe.pendingFrame
      (exec (.writeReg 0) { opened with spe := { opened.spe with addr := 0x23, wdata := 1000 } }) =
    some [0xCC, 0x06, 0x00, 0xF9, 0x05, 0x23, 0xE8, 0x03, 0x00, 0x00, 0xCD] := by decide
/-- V-EX-5: DONE and ERR are cleared at acceptance. -/
theorem test_readReg : endSeen (exec (.readReg 0)
      { opened with spe := { opened.spe with done := true, errCode := .protocolMismatch } }) =
    some (.send, .noError, false) := by decide
/-- V-TE-7: a closed transport. -/
theorem test_readReg_closed : endSeen (exec (.readReg 0) State.reset) = some (.idle, .ioError, true) := by decide
/-- V-RA-12's request. -/
theorem test_readBuf : seen Spe.pendingFrame (exec (.readBuf 0) { opened with spe := { opened.spe with offset := 0x100 } }) =
    some [0xCC, 0x04, 0x00, 0xFA, 0x03, 0xE8, 0x00, 0x01, 0xCD] := by decide
theorem test_readStream : endSeen (exec (.readStream 0) opened) = some (.rxHdr, .noError, false) := by decide
/-- L1.5: the status read. -/
theorem test_pollStatus : seen Spe.pendingFrame (exec (.pollStatus 0) opened) =
    some [0xCC, 0x02, 0x00, 0xF8, 0x01, 0x06, 0xCD] := by decide
/-- V-EX-1. -/
theorem test_illegal0 : endSeen (exec (.illegal0 0) opened) = some (.idle, .illegalCmd, true) := by decide
/-- V-EX-2, as the next. -/
theorem test_illegal67 : seen (fun p => (p.cmdOp, p.errCode)) (exec (.illegal67 0 0) opened) =
    some (6, .illegalCmd) := by decide
theorem test_illegal8F : seen (fun p => (p.cmdOp, p.errCode)) (exec (.illegal8F 7 0) opened) =
    some (15, .illegalCmd) := by decide
/-- V-TE-9: a command while busy. -/
theorem test_busy : seen (fun p => (p.ovr, p.cmdOp, p.engine)) (exec (.writeReg 0) (running .send 2 0xF6)) =
    some (true, 2, .send) := by decide

/-! ### Request frames (R78) -/

theorem test_reqWrite : seen Spe.engine (exec (.reqWrite 0x23 1000)
    (sending 1 0xF5 [0xCC, 0x06, 0x00, 0xF9, 0x05, 0x23, 0xE8, 0x03, 0x00, 0x00, 0xCD])) = some .rxHdr := by decide
theorem test_reqRead : (nextOf (exec (.reqRead 0x10) (sending 2 0xF6 [0xCC, 0x02, 0x00, 0xF8, 0x01, 0x10, 0xCD]))).map
    State.linkOut = some [0xCC, 0x02, 0x00, 0xF8, 0x01, 0x10, 0xCD] := by decide
theorem test_reqBuf : seen Spe.engine (exec (.reqBuf 0)
    (sending 3 0xF7 [0xCC, 0x04, 0x00, 0xFA, 0x03, 0xE8, 0x00, 0x00, 0xCD])) = some .rxHdr := by decide
theorem test_reqWriteAlt : seen Spe.engine (exec (.reqWriteAlt 0x23 1000)
    (sending 1 0xF5 [0xCC, 0x05, 0x00, 0xF9, 0x23, 0xE8, 0x03, 0x00, 0x00, 0xCD])) = some .rxHdr := by decide
theorem test_reqReadAlt : seen Spe.engine (exec (.reqReadAlt 0x06)
    (sending 2 0xF6 [0xCC, 0x01, 0x00, 0xF8, 0x06, 0xCD])) = some .rxHdr := by decide
theorem test_reqBufAlt : seen Spe.engine (exec (.reqBufAlt 0x1234)
    (sending 3 0xF7 [0xCC, 0x03, 0x00, 0xFA, 0xE8, 0x34, 0x12, 0xCD])) = some .rxHdr := by decide
/-- R74: another frame than the one pending is no event. -/
theorem test_req_not_pending : exec (.reqRead 0x11) (sending 2 0xF6 [0xCC, 0x02, 0x00, 0xF8, 0x01, 0x10, 0xCD]) =
    .refused .eventNotEnabled := rfl

/-! ### Replies (R80, R81, R90, R92, R94, R96, R100) -/

/-- V-RA-3's form: bytes after the echo are ignored. -/
theorem test_rspWriteAck : endSeen (exec (.rspWriteAck 0xCC [0x10, 0xAA, 0xBB] 0xCD) (receiving 1 0xF5 3 0xF5)) =
    some (.idle, .noError, true) := by decide
/-- L1.3's form: a wrong echo. -/
theorem test_rspWriteAck_echo : endSeen (exec (.rspWriteAck 0xCC [0x04] 0xCD) (receiving 1 0xF5 1 0xF5)) =
    some (.idle, .protocolMismatch, true) := by decide
/-- V-RA-4: the value is unsigned and little-endian. -/
theorem test_rspReadReply : seen Spe.result (exec (.rspReadReply 0xCC [0x10, 0x00, 0x00, 0x00, 0x80] 0xCD)
    (receiving 2 0xF6 5 0xF6)) = some 0x80000000 := by decide
/-- V-RA-5: a short payload. -/
theorem test_rspReadReply_short : seen (fun p => (p.errCode, p.result))
    (exec (.rspReadReply 0xCC [0x10, 0x39, 0x30] 0xCD) (receiving 2 0xF6 3 0xF6)) = some (.protocolMismatch, 0) := by decide
/-- V-RA-10: PLEN and the PAYLOAD words. -/
theorem test_rspBufReply : seen (fun p => (p.plen, payloadWord p 0, payloadWord p 1, payloadWord p 2))
    (exec (.rspBufReply 0xCC [0xE8, 1, 2, 3, 4, 5] 0xCD) (receiving 3 0xF7 6 0xF7)) =
    some (5, 0x04030201, 0x00000005, 0) := by decide
/-- V-RA-11: a wrong sub-id. -/
theorem test_rspBufReply_echo : seen (fun p => (p.errCode, p.plen))
    (exec (.rspBufReply 0xCC [0xE9, 1] 0xCD) (receiving 3 0xF7 2 0xF7)) = some (.protocolMismatch, 0) := by decide
/-- V-RA-13. -/
theorem test_rspStreamPush : seen (fun p => (p.plen, payloadWord p 0))
    (exec (.rspStreamPush 0xCC [0x11, 0x22] 0xCD) (receiving 4 0xFE 2 0xFE)) = some (2, 0x00002211) := by decide
/-- V-TE-3: the terminator is checked before the type. -/
theorem test_terminator_first : seen (fun p => (p.errCode, p.discardCnt))
    (exec (.rspReadReply 0xCC [0x06] 0x00) (receiving 4 0xFE 1 0xF6)) = some (.framing, 0) := by decide
/-- V-TE-1's first frame: a foreign frame is discarded. -/
theorem test_foreign : seen (fun p => (p.engine, p.discardCnt))
    (exec (.rspReadReply 0xCC [0x06] 0xCD) (receiving 4 0xFE 1 0xF6)) = some (.rxHdr, 1) := by decide

/-! ### Status polls (R100, R104) -/

/-- V-SP-3: the error bits come before the wanted bits. -/
theorem test_poll_moduleError : seen (fun p => (p.errCode, p.result, p.pollCnt))
    (takeEvent (.link (.rdData [0x06, 0x00, 0x00, 0x01, 0x00, 0xCD])) (polling 0 3000 0)) =
    some (.moduleError, 0x00010000, 1) := by decide
/-- V-SP-6: a limit of -1 times out at once. -/
theorem test_poll_negative_limit : seen errWord
    (takeEvent (.link (.rdData [0x06, 0x00, 0x00, 0x00, 0x00, 0xCD])) (polling 0 0xFFFFFFFF 0)) = some 0x102 := by decide
/-- V-SP-5's second read. -/
theorem test_poll_zero_limit : seen errWord
    (takeEvent (.link (.rdData [0x06, 0x00, 0x00, 0x00, 0x00, 0xCD])) (polling 0x100 0 100)) = some 0x102 := by decide
/-- V-SP-15: in SLEEP, STATUS reads 0x401. -/
theorem test_poll_sleep : seen statusWord
    (takeEvent (.link (.rdData [0x06, 0x00, 0x00, 0x00, 0x00, 0xCD])) (polling 0x100 0 0)) = some 0x401 := by decide
/-- V-SP-11: the last tick of a sleep on a closed transport. -/
theorem test_tick_closed : endSeen (takeEvent .tick
    { sleeping 1 with spe := { (sleeping 1).spe with linkEn := false } }) = some (.idle, .ioError, true) := by decide
/-- V-TE-14: only POLL_STATUS counts ticks. -/
theorem test_tick_readReg : seen Spe.elapsed (takeEvent .tick (running .rxHdr 2 0xF6)) = some 0 := by decide

/-! ### Host accesses (R34, V-EX-3 to V-EX-11) -/

/-- V-EX-7. -/
theorem test_addr_keeps_its_bits : seen (fun p => memReadWord p 0x010) (takeEvent (.memWrite 0x010 0x1FF) opened) =
    some 0xFF := by decide
/-- V-EX-8. -/
theorem test_result_readonly : seen Spe.result (takeEvent (.memWrite 0x028 5) opened) = some 0 := by decide
/-- V-EX-9: bits 1:0 are ignored. -/
theorem test_unaligned_read : memReadWord { Spe.reset with result := 7 } 0x02A = 7 := by decide
/-- V-EX-6: unmapped offsets read 0. -/
theorem test_unmapped : memReadWord { Spe.reset with result := 7 } 0x040 = 0 ∧
    memReadWord { Spe.reset with result := 7 } 0x0FFFC = 0 := by decide
/-- V-EX-10. -/
theorem test_clear_ovr : seen (fun p => (p.ovr, p.done)) (takeEvent (.memWrite 0x008 0x4)
    { opened with spe := { opened.spe with done := true, ovr := true } }) = some (false, true) := by decide
/-- V-EX-3's acknowledgement: `irq` falls and STATUS reads 0. -/
theorem test_irq_falls : seen (fun p => (p.irq, statusWord p)) (takeEvent (.memWrite 0x008 0x2)
    { opened with spe := { opened.spe with done := true, irqEn := true } }) = some (false, 0) := by decide
/-- V-TE-8: STATUS in RX_HDR, and closing the transport ends the command. -/
theorem test_close_ends : statusWord (running .rxHdr 2 0xF6).spe = 0x201 ∧
    endSeen (takeEvent (.memWrite 0x000 0) (running .rxHdr 2 0xF6)) = some (.idle, .ioError, true) := by decide
/-- V-TE-10: LAST_HDR. -/
theorem test_lastHdr : seen Spe.lastHdr (takeEvent (.link (.rdData [0xAA, 0x05, 0x00, 0xF6])) (running .rxHdr 2 0xF6)) =
    some 0x0005F6AA := by decide
/-- V-TE-4: a link timeout has TMO_SRC = 0. -/
theorem test_link_timeout : seen errWord (takeEvent (.link .rdTimeout) (running .rxHdr 2 0xF6)) = some 0x002 := by decide

/-! ### Macros (R67) -/

/-- R67: the first line runs, the rest is the host's program. -/
theorem test_doWriteReg : (nextOf (exec (.doWriteReg 0x03 0x3) opened)).map (fun t => (t.spe.addr, t.hostProg)) =
    some (0x03, [.csrw .wdata 0x3, .csrw .cmd 0x1, .waitNotBusy, .csrr .err, .csrw .status 0x2]) := by decide
theorem test_doReadReg : (nextOf (exec (.doReadReg 0x10) opened)).map (fun t => (t.spe.addr, t.hostProg)) =
    some (0x10, [.csrw .cmd 0x2, .waitNotBusy, .csrr .err, .csrw .status 0x2, .csrr .result]) := by decide
theorem test_doReadBuf : seen Spe.offset (exec (.doReadBuf 0x100) opened) = some 0x100 := by decide
theorem test_doPoll : seen Spe.wanted (exec (.doPoll 0x100 2000) opened) = some 0x100 := by decide
theorem test_waitStart : seen Spe.wanted (exec .waitStart opened) = some 0x3 := by decide
theorem test_waitData : seen Spe.wanted (exec (.waitData 9) opened) = some 0x100 := by decide
/-- R67: STATUS is read until BUSY reads 0. -/
theorem test_waitDone_busy : (nextOf (exec .waitDone (sleeping 5))).map (fun t => (t.hostReads, t.hostProg)) =
    some ([(some .status, 0x401)], [.waitNotBusy, .csrr .err, .csrw .status 0x2]) := by decide
theorem test_waitDone_idle : (nextOf (exec .waitDone opened)).map State.hostProg =
    some [.csrr .err, .csrw .status 0x2] := by decide

/-! ### Table words: the very next step runs the row's instruction -/

theorem test_table_words : decodeTableWord 8 0x02 = some (.readReg 0) ∧ decodeTableWord 8 0x06 = some (.illegal67 0 0) ∧
    decodeTableWord 32 0xCC0500F9 = some (.reqWriteAlt 0 0) ∧ decodeTableWord 40 0xCC0200F801 = some (.reqRead 0) ∧
    decodeTableWord 8 0xF5 = some (.rspWriteAck 0 [] 0) := by decide
theorem test_fetch_command : endSeen (step (State.reset.withFetchWord 8 0x02)) = some (.idle, .ioError, true) := by decide
theorem test_fetch_request : seen Spe.engine (step (State.reset.withFetchWord 32 0xCC0500F9)) = some .rxHdr := by decide
/-- A frame whose only body byte is 0 has a wrong terminator (V-FR-9). -/
theorem test_fetch_response : endSeen (step (State.reset.withFetchWord 8 0xF5)) = some (.idle, .framing, true) := by decide

/-! ### Witnesses: for each statement with hypotheses, a state and operands that meet them

Each theorem shows the hypotheses of the obligation of its name, clause by clause. -/

theorem witness_DecodeOfEncode : (Instr.rspBufReply 0xAA [0xE8, 7] 0xCD).wf = true ∧
    Instr.rspBufReply 0xAA [0xE8, 7] 0xCD ≠ .waitStart ∧ ∀ t, Instr.rspBufReply 0xAA [0xE8, 7] 0xCD ≠ .waitData t :=
  ⟨rfl, by decide, fun _ h => by cases h⟩

theorem witness_EncodeOfDecode : decode (.rxFrame [0xAA, 0x02, 0x00, 0xF7, 0xE8, 0x07, 0x00]) =
    .ok (.rspBufReply 0xAA [0xE8, 7] 0x00) := rfl

/-- The clauses on a frame, and the two on the length at the longest body that has an encoding and one byte more. -/
theorem witness_FramerRoundTrip : (∃ f, encodeRequest true 0xF8 0x01 [0x06] = some f) ∧
    (∃ f, encodeRequest false 0xF8 0x01 [0x06] = some f) ∧
    (List.replicate 65534 (0 : Byte)).length ≤ 65534 ∧ 65534 < (List.replicate 65535 (0 : Byte)).length :=
  ⟨⟨_, rfl⟩, ⟨_, rfl⟩, by simp only [List.length_replicate]; decide, by simp only [List.length_replicate]; decide⟩

theorem witness_StepRunsTheDecodedInstruction_cmd : csrAt 0x004 = some .cmd ∧ csrAt 0x20006 = some .cmd ∧
    decode (.cmdWord 0x2) = .ok (.readReg 0) := ⟨rfl, rfl, rfl⟩

theorem witness_StepRunsTheDecodedInstruction_request : let s := sending 2 0xF6 [0xCC, 0x02, 0x00, 0xF8, 0x01, 0x10, 0xCD]
    s.spe.engine = .send ∧ decode (.txFrame s.spe.pendingFrame) = .ok (.reqRead 0x10) := ⟨rfl, rfl⟩

theorem witness_StepRunsTheDecodedInstruction_reply : let s := receiving 3 0xF7 1 0xF7
    s.spe.engine = .rxBody ∧ [0xE8, 0xCD].length = s.spe.hdrLen.toNat + 1 ∧
    decode (.rxFrame ([s.spe.hdrTag] ++ le16 s.spe.hdrLen ++ [s.spe.hdrType] ++ [0xE8, 0xCD])) =
      .ok (.rspBufReply 0xCC [0xE8] 0xCD) := ⟨rfl, rfl, rfl⟩

theorem witness_StepRunsTheDecodedInstruction_line : isHostLine (.doReadReg 0x10) = true ∧ isHostLine (.pollStatus 0) = true := ⟨rfl, rfl⟩

theorem witness_PlacedWordRuns : decodeTableWord 8 0x05 = some (.pollStatus 0) ∧
    decodeTableWord 32 0xCC0100F8 = some (.reqReadAlt 0) ∧ decodeTableWord 8 0xFE = some (.rspStreamPush 0 [] 0) := by
  decide

/-- A request frame that is not the pending one, and in RX_BODY a reply with another tag, another type and another
length than the header received, for each reply type. -/
theorem witness_WireRowsRefusedUnlessPending :
    encode (.reqRead 0x11) = .txFrame [0xCC, 0x02, 0x00, 0xF8, 0x01, 0x11, 0xCD] ∧
    ¬ ((sending 2 0xF6 [0xCC, 0x02, 0x00, 0xF8, 0x01, 0x10, 0xCD]).spe.engine = .send ∧
      (sending 2 0xF6 [0xCC, 0x02, 0x00, 0xF8, 0x01, 0x10, 0xCD]).spe.pendingFrame =
        [0xCC, 0x02, 0x00, 0xF8, 0x01, 0x11, 0xCD]) ∧
    ∀ type ∈ [(0xF5 : Byte), 0xF6, 0xF7, 0xFE], ∀ t ∈ [((0xAA : Byte), type, [(1 : Byte)]), (0xCC, type ^^^ 1, [1]),
      (0xCC, type, [])], let s := receiving 2 0xF6 1 t.2.1
      ¬ (s.spe.engine = .rxBody ∧ s.spe.hdrTag = t.1 ∧ s.spe.hdrType = type ∧ s.spe.hdrLen.toNat = t.2.2.length) :=
  ⟨rfl, by decide, by decide⟩

/-- The three clauses of every start statement: busy, IDLE with the transport open, IDLE with it closed. -/
abbrev StartHypotheses : Prop := (running .sleep 5 0xF6).spe.engine ≠ .idle ∧
  (opened.spe.engine = .idle ∧ opened.spe.linkEn = true) ∧
  (State.reset.spe.engine = .idle ∧ State.reset.spe.linkEn = false)

theorem witness_WriteRegStarts : StartHypotheses := by decide
theorem witness_ReadRegStarts : StartHypotheses := by decide
theorem witness_ReadBufStarts : StartHypotheses := by decide
theorem witness_ReadStreamStarts : StartHypotheses := by decide
theorem witness_PollStatusStarts : StartHypotheses := by decide
theorem witness_ReservedOpcodesEndIllegal : StartHypotheses := by decide

theorem witness_CommandWhileBusyIsDropped : csrAt 0x004 = some .cmd ∧ (running .sleep 5 0xF6).spe.busy = true ∧
    (running .send 2 0xF6).spe.busy = true := by decide

/-- One pending frame for each clause. -/
theorem witness_RequestFrameIsWritten :
    (sending 1 0xF5 ([0xCC, 0x06, 0x00, 0xF9, 0x05, 0x23] ++ le32 1000 ++ [0xCD])).spe.pendingFrame =
      [0xCC, 0x06, 0x00, 0xF9, 0x05, 0x23] ++ le32 1000 ++ [0xCD] ∧
    (sending 2 0xF6 [0xCC, 0x02, 0x00, 0xF8, 0x01, 0x10, 0xCD]).spe.pendingFrame =
      [0xCC, 0x02, 0x00, 0xF8, 0x01, 0x10, 0xCD] ∧
    (sending 3 0xF7 ([0xCC, 0x04, 0x00, 0xFA, 0x03, 0xE8] ++ le16 0xFFFF ++ [0xCD])).spe.pendingFrame =
      [0xCC, 0x04, 0x00, 0xFA, 0x03, 0xE8] ++ le16 0xFFFF ++ [0xCD] ∧
    (sending 1 0xF5 ([0xCC, 0x05, 0x00, 0xF9, 0x23] ++ le32 1000 ++ [0xCD])).spe.pendingFrame =
      [0xCC, 0x05, 0x00, 0xF9, 0x23] ++ le32 1000 ++ [0xCD] ∧
    (sending 2 0xF6 [0xCC, 0x01, 0x00, 0xF8, 0x10, 0xCD]).spe.pendingFrame = [0xCC, 0x01, 0x00, 0xF8, 0x10, 0xCD] ∧
    (sending 3 0xF7 ([0xCC, 0x03, 0x00, 0xFA, 0xE8] ++ le16 0 ++ [0xCD])).spe.pendingFrame =
      [0xCC, 0x03, 0x00, 0xFA, 0xE8] ++ le16 0 ++ [0xCD] ∧
    (sending 1 0xF5 []).spe.engine = .send := by decide

theorem witness_HeaderStep : (running .rxHdr 2 0xF6).spe.engine = .rxHdr := rfl

/-- The three clauses on the terminator and the type, with an empty and a one-byte payload. -/
theorem witness_BodyStep : (receiving 2 0xF6 0 0xF6).spe.engine = .rxBody ∧
    ([] : List Byte).length = (receiving 2 0xF6 0 0xF6).spe.hdrLen.toNat ∧ (0xCC : Byte) ≠ 0xCD ∧
    (receiving 2 0xF6 0 0xF6).spe.hdrType = (receiving 2 0xF6 0 0xF6).spe.expType ∧
    [(7 : Byte)].length = (receiving 2 0xF6 1 0x42).spe.hdrLen.toNat ∧
    (receiving 2 0xF6 1 0x42).spe.hdrType ≠ (receiving 2 0xF6 1 0x42).spe.expType := by decide

theorem witness_WriteAckFinishesWriteReg : let s := receiving 1 0xF5 0 0xF5
    s.spe.engine = .rxBody ∧ s.spe.hdrTag = 0xCC ∧ s.spe.hdrType = 0xF5 ∧
    s.spe.hdrLen.toNat = ([] : List Byte).length ∧ s.spe.lOp = 1 ∧ s.spe.expType = 0xF5 := by decide

theorem witness_ReadReplyFinishesReadReg : let s := receiving 2 0xF6 5 0xF6
    s.spe.engine = .rxBody ∧ s.spe.hdrTag = 0xCC ∧ s.spe.hdrType = 0xF6 ∧
    s.spe.hdrLen.toNat = [0x10, 0, 0, 0, 0x80].length ∧ s.spe.lOp = 2 ∧ s.spe.expType = 0xF6 := by decide

theorem witness_BufReplyFinishesReadBuf : let s := receiving 3 0xF7 1 0xF7
    s.spe.engine = .rxBody ∧ s.spe.hdrTag = 0xCC ∧ s.spe.hdrType = 0xF7 ∧
    s.spe.hdrLen.toNat = [0xE8].length ∧ s.spe.lOp = 3 ∧ s.spe.expType = 0xF7 := by decide

theorem witness_StreamPushFinishesReadStream : let s := receiving 4 0xFE 0 0xFE
    s.spe.engine = .rxBody ∧ s.spe.hdrTag = 0xCC ∧ s.spe.hdrType = 0xFE ∧
    s.spe.hdrLen.toNat = ([] : List Byte).length ∧ s.spe.lOp = 4 ∧ s.spe.expType = 0xFE := by decide

theorem witness_ReadReplyFinishesPoll : let s := polling 0x100 0 0
    s.spe.engine = .rxBody ∧ s.spe.hdrTag = 0xCC ∧ s.spe.hdrType = 0xF6 ∧
    s.spe.hdrLen.toNat = [0x06, 0, 0, 1, 0].length ∧ s.spe.lOp = 5 ∧ s.spe.expType = 0xF6 ∧
    u32le ([0x06, 0, 0, 1, 0].getD 1 0) ([0x06, 0, 0, 1, 0].getD 2 0) ([0x06, 0, 0, 1, 0].getD 3 0)
      ([0x06, 0, 0, 1, 0].getD 4 0) = 0x00010000 ∧
    (if s.spe.pollCnt = 0xFFFFFFFF then 0xFFFFFFFF else s.spe.pollCnt + 1) = 1 := by decide

/-- A foreign frame of each known type. -/
theorem witness_ForeignFrameIsDiscarded : ∀ type ∈ [(0xF5 : Byte), 0xF6, 0xF7, 0xFE],
    ∃ exp, (receiving 4 exp 0 type).spe.engine = .rxBody ∧ (receiving 4 exp 0 type).spe.hdrTag = 0xCC ∧
    (receiving 4 exp 0 type).spe.hdrLen.toNat = ([] : List Byte).length ∧
    (receiving 4 exp 0 type).spe.hdrType = type ∧
    (receiving 4 exp 0 type).spe.hdrType ≠ (receiving 4 exp 0 type).spe.expType := by
  intro type h
  by_cases he : type = 0xF5
  · subst he; exact ⟨0xFE, by decide⟩
  · exact ⟨0xF5, rfl, rfl, rfl, rfl, he⟩

/-- With no cap, and with a cap of exactly N. -/
theorem witness_ForeignFramesThenMatch : let s := running .rxHdr 4 0xFE
    s.spe.engine = .rxHdr ∧ s.spe.discardCnt = 0 ∧ s.spe.lCap = 0 ∧
    ([(0xCC, 0xF6, [6])] : List (Byte × Byte × List Byte)).length ≤ (1 : Word).toNat ∧
    (∀ f ∈ ([(0xCC, 0xF6, [6])] : List (Byte × Byte × List Byte)), f.2.1 ≠ s.spe.expType ∧ f.2.2.length ≤ 65535) ∧
    [(0x11 : Byte), 0x22].length ≤ 65535 := by decide

theorem witness_ForeignFramesStarve : let s := running .rxHdr 4 0xFE
    s.spe.engine = .rxHdr ∧ s.spe.lCap = 0 ∧
    (∀ f ∈ ([(0xCC, 0xF6, [6]), (0x00, 0x42, [])] : List (Byte × Byte × List Byte)),
      f.2.1 ≠ s.spe.expType ∧ f.2.2.length ≤ 65535) := by decide

theorem witness_ReadRegReturnsTheValue : let s : State := { opened with
      inbox := [.memWrite 0x004 0x2, .link .wrOk] ++ frameEvents 0xCC 0xF6 ([opened.spe.addr] ++ le32 12345) 0xCD ++ [.tick] }
    s.spe.engine = .idle ∧ s.spe.linkEn = true ∧
    s.inbox = [.memWrite 0x004 0x2, .link .wrOk] ++ frameEvents 0xCC 0xF6 ([s.spe.addr] ++ le32 12345) 0xCD ++ [.tick] :=
  ⟨rfl, rfl, rfl⟩

theorem witness_BytesLeaveOnlyInSend :
    ∃ t, takeEvent (.link .wrOk) (sending 2 0xF6 [0xCC, 0x02, 0x00, 0xF8, 0x01, 0x10, 0xCD]) = .next t ∧
      t.linkOut ≠ [] := ⟨_, rfl, by decide⟩

theorem witness_TickStep : (if (sleeping 1).spe.elapsed = 0xFFFFFFFF then 0xFFFFFFFF else (sleeping 1).spe.elapsed + 1) =
    (1 : Word) := by decide

theorem witness_SleepLastsHundredTicks : let s := { sleeping 100 with inbox := List.replicate 100 Event.tick }
    s.spe.engine = .sleep ∧ s.spe.lOp = 5 ∧ s.spe.sleepCnt = 100 ∧ s.spe.linkEn = true ∧
    s.inbox = List.replicate 100 Event.tick ∧ (100 : Nat) ≤ 100 := ⟨rfl, rfl, rfl, rfl, rfl, by decide⟩

/-- A negative limit, a saturated count, and a limit of 0 at which a read without a tick sleeps on. -/
theorem witness_MaxTimeCorners : (polling 0 0xFFFFFFFF 0).spe.lMaxTime.toInt < 0 ∧
    (polling 0 0x7FFFFFFF 0xFFFFFFFF).spe.elapsed = 0xFFFFFFFF ∧
    (polling 1 0 0).spe.lMaxTime = 0 ∧ (polling 1 0 0).spe.elapsed = 0 ∧
    (judgeStatus 0 { (polling 1 0 0).spe with errCode := .timeout }).errCode = .timeout := by decide

theorem witness_WantedErrorBitIsNeverSatisfied : let s := polling 0x00010000 3000 0
    s.spe.engine ≠ .idle ∧ s.spe.lOp = 5 ∧ s.spe.done = false ∧ s.spe.lWanted &&& 0xFFFF0000 ≠ 0 ∧
    ∃ t, takeEvent (.link (.rdData [0x06, 0, 0, 1, 0, 0xCD])) s = .next t :=
  ⟨by decide, rfl, rfl, by decide, ⟨_, rfl⟩⟩

theorem witness_StatusTimeoutOnlyAtACompletedRead :
    ∃ t, takeEvent (.link (.rdData [0x06, 0, 0, 0, 0, 0xCD])) (polling 0x100 0 1) = .next t ∧
      (polling 0x100 0 1).spe.tmoSrc = false ∧ t.spe.tmoSrc = true := ⟨_, rfl, rfl, by decide⟩

/-- Two reads of different statuses, the first at exactly the limit and the second beyond it. -/
theorem witness_PollTimeline :
    let rs : List PollRead := [⟨0x003, 1, 0, 0⟩, ⟨0x0FF, 0, 0, 0⟩]
    let s : State := { running .send 5 0xF6 with
      spe := { (running .send 5 0xF6).spe with lWanted := 0x101, lMaxTime := 1 }
      inbox := pollEvents rs ++ [.tick] }
    s.spe.engine = .send ∧ s.spe.lOp = 5 ∧ s.spe.expType = 0xF6 ∧ s.spe.linkEn = true ∧
    (∀ r ∈ rs, r.status &&& 0xFFFF0000 = 0 ∧ r.status &&& s.spe.lWanted ≠ s.spe.lWanted) ∧
    s.spe.elapsed = 0 ∧ s.spe.pollCnt = 0 ∧ rs ≠ [] ∧ pollTime rs < 2 ^ 32 ∧ rs.dropLast ≠ [] ∧
    (pollTime rs.dropLast : Int) ≤ s.spe.lMaxTime.toInt ∧ s.inbox = pollEvents rs ++ [.tick] :=
  ⟨rfl, rfl, rfl, rfl, by decide, rfl, rfl, by decide, by decide, by decide, by decide, rfl⟩

/-- The trace of `witness_FairCommandsEnd`: a READ_STREAM with a cap of 1 whose header times out at once, and then
ticks for ever. -/
def traceEvent : Nat → Event
  | 0 => .link .rdTimeout
  | _ + 1 => .tick

/-- Its states. -/
def traceState : Nat → State
  | 0 => { running .rxHdr 4 0xFE with spe := { (running .rxHdr 4 0xFE).spe with lCap := 1 } }
  | n + 1 => (nextOf (takeEvent (traceEvent n) (traceState n))).getD (traceState n)

theorem traceState_idle : ∀ n, (traceState (n + 1)).spe.engine = .idle
  | 0 => by decide
  | n + 1 => by
    have ih := traceState_idle n
    show (tick (traceState (n + 1)).cfg (traceState (n + 1)).spe).engine = .idle
    unfold tick
    rw [if_neg (fun h => h.1 ih)]
    exact ih

theorem traceState_inv : (traceState 0).Inv := by constructor <;> decide

theorem witness_FairCommandsEnd : IsTrace traceEvent traceState ∧ FairLink traceEvent traceState ∧
    FairClock traceEvent ∧ (traceState 0).Inv ∧ (traceState 0).spe.lCap ≠ 0 ∧ (traceState 0).spe.engine ≠ .idle := by
  refine ⟨fun n => ?_, fun n h => ?_, fun n => ⟨n + 1, by omega, rfl⟩, traceState_inv, by decide, by decide⟩
  · cases n <;> rfl
  · have := h (n + 1) (by omega)
    rw [traceState_idle] at this
    cases this

/-- Closing and not closing, at an address with ignored bits set. -/
theorem witness_CtrlWrite : (0x20003 : Word) &&& 0x1FFFC = 0x000 ∧ (0x000 : Word) &&& 0x1FFFC = 0x000 ∧
    (running .send 2 0xF6).spe.linkEn = true ∧ (0x2 : Word).getLsbD 0 = false := by decide

/-- Each clause, at the first and last byte of its word, and the last two ranges at their ends. -/
theorem witness_CsrWritesFollowTheMap : (0x008 : Word) &&& 0x1FFFC = 0x008 ∧ (0x013 : Word) &&& 0x1FFFC = 0x010 ∧
    (0x014 : Word) &&& 0x1FFFC = 0x014 ∧ (0x01B : Word) &&& 0x1FFFC = 0x018 ∧ (0x01C : Word) &&& 0x1FFFC = 0x01C ∧
    (0x020 : Word) &&& 0x1FFFC = 0x020 ∧ (0x027 : Word) &&& 0x1FFFC = 0x024 ∧ (0x00F : Word) &&& 0x1FFFC = 0x00C ∧
    (0x028 : Word) ≤ 0x028 &&& 0x1FFFC ∧ (0x028 : Word) ≤ 0x1FFFF &&& 0x1FFFC := by decide

/-- Each clause; the unmapped range at both ends. -/
theorem witness_CsrReadWords : (0x000 : Word) &&& 0x1FFFC = 0x000 ∧ (0x004 : Word) &&& 0x1FFFC = 0x004 ∧
    (0x20008 : Word) &&& 0x1FFFC = 0x008 ∧ (0x00C : Word) &&& 0x1FFFC = 0x00C ∧ (0x010 : Word) &&& 0x1FFFC = 0x010 ∧
    (0x014 : Word) &&& 0x1FFFC = 0x014 ∧ (0x018 : Word) &&& 0x1FFFC = 0x018 ∧ (0x01C : Word) &&& 0x1FFFC = 0x01C ∧
    (0x020 : Word) &&& 0x1FFFC = 0x020 ∧ (0x024 : Word) &&& 0x1FFFC = 0x024 ∧ (0x02A : Word) &&& 0x1FFFC = 0x028 ∧
    (0x02C : Word) &&& 0x1FFFC = 0x02C ∧ (0x030 : Word) &&& 0x1FFFC = 0x030 ∧ (0x034 : Word) &&& 0x1FFFC = 0x034 ∧
    (0x038 : Word) &&& 0x1FFFC = 0x038 ∧ (0x03F : Word) &&& 0x1FFFC = 0x03C ∧
    ((0x040 : Word) ≤ 0x040 &&& 0x1FFFC ∧ (0x040 : Word) &&& 0x1FFFC < 0x10000) ∧
    ((0x040 : Word) ≤ 0x0FFFF &&& 0x1FFFC ∧ (0x0FFFF : Word) &&& 0x1FFFC < 0x10000) := by decide

theorem witness_PayloadWindow : (16383 : Nat) < 16384 ∧ (3 : Nat) < 4 ∧ (0 : Nat) < 16384 ∧ (0 : Nat) < 4 := by decide

/-- The four clauses about a next state. -/
theorem witness_InterruptFollowsDone : (0x2 : Word).getLsbD 1 = true ∧ (0x1 : Word).getLsbD 1 = false ∧
    (∃ t, takeEvent (.memWrite 0x008 0x2) opened = .next t) ∧
    (∃ t, takeEvent (.memWrite 0x000 0x1) opened = .next t ∧ opened.spe.engine = .idle) ∧
    (∃ t, takeEvent (.memWrite 0x004 0x4) opened = .next t ∧ t.spe.engine ≠ .idle) ∧
    (∃ t, takeEvent .reset opened = .next t) :=
  ⟨by decide, by decide, ⟨_, rfl⟩, ⟨_, rfl, rfl⟩, ⟨_, rfl, by decide⟩, ⟨_, rfl⟩⟩

/-- A program for each clause. -/
theorem witness_HostLinesAreAccesses : ∀ l ∈ [HostLine.csrw .ctrl 1, .csrr (.payload 16383), .waitNotBusy, .waitIrq,
    .readPayload], ∃ s q : State, s.hostProg = l :: [.csrr .err] ∧ q = { s with hostProg := [.csrr .err] } :=
  fun l _ => ⟨{ opened with hostProg := [l, .csrr .err] }, _, rfl, rfl⟩

theorem witness_MacrosRunTheirExpansion : waitDoneLines.tail = [.csrr .err, .csrw .status 0x2] := rfl

theorem witness_StepKeepsTheInvariant :
    let s : State := { traceState 0 with inbox := [.link (.rdData [0xCC, 0x02, 0x00, 0xFE])] }
    s.Inv ∧ ∃ t, step s = .next t ∧ t.spe.engine = .rxBody := ⟨by constructor <;> decide, _, rfl, rfl⟩

/-- The kinds of change: an end of a running command, an acceptance in IDLE that clears ERR, one that ends at once,
and a reset. -/
theorem witness_ErrChangesOnlyAtEndOrAcceptance :
    (∃ t, takeEvent (.link .rdTimeout) (running .rxHdr 2 0xF6) = .next t ∧
      t.spe.errCode ≠ (running .rxHdr 2 0xF6).spe.errCode) ∧
    (∃ t, takeEvent (.memWrite 0x004 0x4) { opened with spe := { opened.spe with errCode := .timeout, tmoSrc := true } } =
      .next t ∧ t.spe.tmoSrc ≠ true) ∧
    (∃ t, takeEvent (.memWrite 0x004 0x4) State.reset = .next t ∧ t.spe.errCode ≠ State.reset.spe.errCode) ∧
    (∃ t, takeEvent .reset { opened with spe := { opened.spe with errCode := .framing } } = .next t ∧
      t.spe.errCode ≠ .framing) :=
  ⟨⟨_, rfl, by decide⟩, ⟨_, rfl, by decide⟩, ⟨_, rfl, by decide⟩, ⟨_, rfl, by decide⟩⟩

/-- OVR set by a command while busy, and cleared by the host. -/
theorem witness_OverrunIsSticky :
    (∃ t, takeEvent (.memWrite 0x004 0x2) (running .send 2 0xF6) = .next t ∧
      (running .send 2 0xF6).spe.ovr = false ∧ t.spe.ovr = true) ∧
    (∃ t, takeEvent (.memWrite 0x008 0x4) { opened with spe := { opened.spe with ovr := true } } = .next t ∧
      t.spe.ovr = false) := ⟨⟨_, rfl, rfl, rfl⟩, ⟨_, rfl, by decide⟩⟩

/-- A link answer, a tick, a CMD write and a write to another CSR, each with a next state. -/
theorem witness_ArgumentsAndResultsHaveOneWriter :
    (∃ t, takeEvent (.link .rdTimeout) (running .rxHdr 2 0xF6) = .next t) ∧
    (∃ t, takeEvent .tick (sleeping 1) = .next t) ∧
    (csrAt 0x004 = some .cmd ∧ ∃ t, takeEvent (.memWrite 0x004 0x2) opened = .next t) ∧
    (csrAt 0x028 ≠ some .cmd ∧ ∃ t, takeEvent (.memWrite 0x028 5) opened = .next t) :=
  ⟨⟨_, rfl⟩, ⟨_, rfl⟩, ⟨rfl, _, rfl⟩, ⟨by decide, _, rfl⟩⟩

theorem witness_ArgumentsAreLatched : (∃ ans, Event.link .wrOk = .link ans) ∧ (Event.tick = .tick) := ⟨⟨_, rfl⟩, rfl⟩

/-- V-RA-13's last step. -/
theorem witness_OutChangesOnlyOnSuccess :
    ∃ t, takeEvent (.link (.rdData [0x11, 0x22, 0xCD])) (receiving 4 0xFE 2 0xFE) = .next t ∧
      t.spe.out ≠ (receiving 4 0xFE 2 0xFE).spe.out := ⟨_, rfl, by decide⟩

/-- V-TE-4's last step. -/
theorem witness_FailedAccessLeavesNoResult :
    (running .rxHdr 2 0xF6).Inv ∧ (running .rxHdr 2 0xF6).spe.engine ≠ .idle ∧ (running .rxHdr 2 0xF6).spe.lOp ≠ 5 ∧
    ∃ t, takeEvent (.link .rdTimeout) (running .rxHdr 2 0xF6) = .next t ∧ t.spe.done = true ∧
      t.spe.errCode ≠ .noError := ⟨by constructor <;> decide, by decide, by decide, _, rfl, rfl, by decide⟩

theorem witness_ResultsStayAfterTheEnd : opened.spe.engine = .idle ∧
    (∃ t, takeEvent (.memWrite 0x008 0x2) opened = .next t) ∧ Event.memWrite 0x008 0x2 ≠ .reset ∧
    Event.memWrite 0x008 0x2 ≠ .hostLine ∧
    (∀ a v, Event.memWrite 0x008 0x2 = .memWrite a v → csrAt a ≠ some .cmd) :=
  ⟨rfl, ⟨_, rfl⟩, by decide, by decide, fun _ _ h => by injection h with h; subst h; decide⟩

/-- SLEEP left by its last tick, IDLE left by a CMD write. -/
theorem witness_SleepAndIdleAreLeftAsStated :
    (∃ t, takeEvent .tick (sleeping 1) = .next t ∧ (sleeping 1).spe.engine = .sleep ∧ t.spe.engine ≠ .sleep) ∧
    (∃ t, takeEvent (.memWrite 0x004 0x5) opened = .next t ∧ opened.spe.engine = .idle ∧ t.spe.engine ≠ .idle) :=
  ⟨⟨_, rfl, rfl, by decide⟩, ⟨_, rfl, rfl, by decide⟩⟩

end Sys2Proof.Tests
end

/-! The family 00_scope: one step runs the instruction of the next event, and a placed table word is run by the
next step. -/

namespace Sys2Proof.Machine

/-! ### The step, on each event that runs an instruction -/

/-- A step takes the event at the head of the inbox (R8, R48). -/
theorem step_of_inbox {s : State} {e : Event} {rest : List Event} (h : s.inbox = e :: rest) :
    step s = takeEvent e { s with inbox := rest } := by
  simp only [step, stepInbox, h]

/-- A write at any alias of CMD runs the word's instruction (R34, R75). -/
theorem hostWrite_of_csrAt_cmd {a : Word} (h : csrAt a = some .cmd) (v : Word) (s : State) :
    hostWrite a v s = exec (decodeCmd v) s := by
  simp only [hostWrite, h]

/-- `WR_OK` in SEND runs the instruction of the pending frame (R78). -/
theorem takeEvent_wrOk {s : State} {i : Instr} (he : s.spe.engine = .send)
    (hi : decodeTx s.spe.pendingFrame = .ok i) : takeEvent (.link .wrOk) s = exec i s := by
  simp only [takeEvent, linkAnswer, he, answerSend, hi]

/-- A body of the announced length runs the instruction of the frame it completes (R80). -/
theorem takeEvent_body {s : State} {b : List Byte} {i : Instr} (he : s.spe.engine = .rxBody)
    (hb : b.length = s.spe.hdrLen.toNat + 1) (hi : decodeRx (receivedFrame s.spe b) = .ok i) :
    takeEvent (.link (.rdData b)) s = exec i s := by
  simp only [takeEvent, linkAnswer, he, answerBody, hb, hi, if_true]

/-- A host line that names a command or a macro runs it, with the line taken off the program (R66). -/
theorem hostTurn_run {s : State} {i : Instr} {ls : List HostLine} (hp : s.hostProg = .run i :: ls)
    (hi : isHostLine i = true) : hostTurn s = exec i { s with hostProg := ls } := by
  simp only [hostTurn, hp, hi, if_true]

/-- Settles O7, event by event: `step_of_inbox` takes the event off, and the event's own law says what it runs. -/
theorem stepRunsTheDecodedInstruction : Obligations.StepRunsTheDecodedInstruction := by
  intro s rest
  refine ⟨fun a v i hq ha hi => ?_, fun i hq he hi => ?_, fun b i hq he hb hi => ?_, fun i ls hq hp hi => ?_⟩ <;>
    rw [step_of_inbox hq]
  · obtain rfl : decodeCmd v = i := Except.ok.inj hi
    exact hostWrite_of_csrAt_cmd ha v _
  · exact takeEvent_wrOk he hi
  · exact takeEvent_body he hb hi
  · exact hostTurn_run hp hi

/-! ### The operation that a decoded frame's instruction is -/

/-- Bit `n` of an assembled 32-bit value is a bit of the byte it falls in (R11). -/
theorem getLsbD_u32le (a b c d : Byte) (n : Nat) :
    (u32le a b c d).getLsbD n =
      if n < 8 then a.getLsbD n else if n < 16 then b.getLsbD (n - 8)
      else if n < 24 then c.getLsbD (n - 16) else d.getLsbD (n - 24) := by
  simp only [u32le, BitVec.getLsbD_or, BitVec.getLsbD_shiftLeft, BitVec.getLsbD_setWidth]
  grind

/-- The four bytes of an assembled 32-bit value are the bytes it was made of (R11). -/
theorem le32_u32le (a b c d : Byte) : le32 (u32le a b c d) = [a, b, c, d] := by
  simp only [le32, List.cons.injEq, and_true]
  refine ⟨?_, ?_, ?_, ?_⟩ <;>
  · ext i hi
    simp only [← BitVec.getLsbD_eq_getElem, BitVec.getLsbD_extractLsb', getLsbD_u32le]
    grind

/-- A request frame that passes the check is the row's leading bytes, its operands and the terminator. -/
theorem checkRequest_ok {lead want : List Byte} {term : Byte} {i j : Instr}
    (h : checkRequest lead want term i = .ok j) : lead = want ∧ term = termByte ∧ i = j := by
  unfold checkRequest at h
  split at h
  · cases h
  next hl =>
    split at h
    · cases h
    next ht => exact ⟨not_not.mp hl, not_not.mp ht, Except.ok.inj h⟩

/-- The instruction of a request frame is the writing of that frame, which is one of R62's and so has at most 11
bytes. -/
theorem exec_of_decodeTx {f : List Byte} {i : Instr} (h : decodeTx f = .ok i) :
    f.length ≤ 11 ∧ ∀ s, exec i s = writeFrame f s := by
  unfold decodeTx at h
  split at h
  case h_7 => cases h  -- no row has a frame of this size
  all_goals
    obtain ⟨hl, rfl, rfl⟩ := checkRequest_ok h
    simp only [List.cons.injEq, and_true] at hl
    simp [hl, exec, execReqWrite, execReqRead, execReqBuf, execReqWriteAlt, execReqReadAlt, execReqBufAlt,
      le32_u32le, le16_u16le]

/-- The instruction of a received frame is the arrival of that frame: its body is the payload, of the header's
length, and one last byte (R56, R80). -/
theorem exec_of_decodeRx {tag l0 l1 type : Byte} {b : List Byte} {i : Instr}
    (h : decodeRx (tag :: l0 :: l1 :: type :: b) = .ok i) :
    ∃ p term, b = p ++ [term] ∧ (u16le l0 l1).toNat = p.length ∧
      ∀ s, exec i s = receiveFrame tag type p term s := by
  unfold decodeRx at h
  simp only at h
  split at h
  next term hd =>
    have hlen : b.length = (u16le l0 l1).toNat + 1 := by
      have := congrArg List.length hd
      simp at this; omega
    refine ⟨b.take (u16le l0 l1).toNat, term, by rw [← hd, List.take_append_drop], by simp [hlen], fun s => ?_⟩
    split_ifs at h <;> cases h <;> subst type <;> rfl
  next => cases h

/-! ### Placed codes (log entries 3 and 11) -/

/-- The state with the code placed, and the event that runs it taken off the inbox again. -/
def placedTaken (c : Code) (s : State) : State := { placeCode c s with inbox := s.inbox }

/-- The next step after placing the code runs the instruction, which answers a next state. -/
def PlacedCodeRuns (c : Code) (i : Instr) (s : State) : Prop :=
  ∃ q t, q.inbox = s.inbox ∧ step (placeCode c s) = exec i q ∧ exec i q = .next t

/-- A code runs if placing it puts one event before the inbox and that event runs the instruction. -/
theorem PlacedCodeRuns.of_event {c : Code} {i : Instr} {s t : State} (e : Event)
    (hplaced : (placeCode c s).inbox = e :: s.inbox)
    (hrun : takeEvent e (placedTaken c s) = exec i (placedTaken c s))
    (hnext : exec i (placedTaken c s) = .next t) : PlacedCodeRuns c i s :=
  ⟨placedTaken c s, t, rfl, (step_of_inbox hplaced).trans hrun, hnext⟩

/-- A placed command word is the host's next write to CMD (R75). -/
theorem placedCodeRuns_cmdWord (w : Word) (s : State) : PlacedCodeRuns (.cmdWord w) (decodeCmd w) s :=
  .of_event (.memWrite (csrOffset .cmd) w) rfl (hostWrite_of_csrAt_cmd (csrAt_csrOffset .cmd) w _)
    (exec_decodeCmd w s)

/-- A placed request frame is the pending one if TXLEN, of 4 bits, can count its bytes (R26, R29). -/
theorem placedTaken_pendingFrame {f : List Byte} (h : f.length ≤ 15) (s : State) :
    (placedTaken (.txFrame f) s).spe.pendingFrame = f := by
  simp [placedTaken, placeCode, Spe.pendingFrame]
  omega

/-- A placed request frame is written at the Link's `WR_OK` (R78). -/
theorem placedCodeRuns_txFrame {f : List Byte} {i : Instr} (h : decodeTx f = .ok i) (s : State) :
    PlacedCodeRuns (.txFrame f) i s := by
  obtain ⟨hlen, hexec⟩ := exec_of_decodeTx h
  have hpend := placedTaken_pendingFrame (show f.length ≤ 15 by omega) s
  exact .of_event (.link .wrOk) rfl (takeEvent_wrOk rfl (hpend.symm ▸ h))
    ((hexec _).trans (writeFrame_pending rfl hpend))

/-- The frame received after a placed response frame's body is that frame (R56). -/
theorem placedTaken_receivedFrame (tag l0 l1 type : Byte) (b : List Byte) (s : State) :
    receivedFrame (placedTaken (.rxFrame (tag :: l0 :: l1 :: type :: b)) s).spe b =
      tag :: l0 :: l1 :: type :: b := by
  simp [placedTaken, placeCode, receivedFrame, le16_u16le]

/-- A placed response frame is completed by the Link's `RD_DATA` of its body (R80). -/
theorem placedCodeRuns_rxFrame {tag l0 l1 type : Byte} {b : List Byte} {i : Instr}
    (h : decodeRx (tag :: l0 :: l1 :: type :: b) = .ok i) (s : State) :
    PlacedCodeRuns (.rxFrame (tag :: l0 :: l1 :: type :: b)) i s := by
  obtain ⟨p, term, rfl, hlen, hexec⟩ := exec_of_decodeRx h
  have hbody : (p ++ [term]).length = (u16le l0 l1).toNat + 1 := by simp [hlen]
  exact .of_event (.link (.rdData (p ++ [term]))) rfl
    (takeEvent_body rfl hbody ((placedTaken_receivedFrame ..).symm ▸ h))
    ((hexec _).trans (receiveFrame_pending rfl rfl rfl hlen))

/-- A table word stands for a request frame, a response frame with a whole header, or a command word. -/
theorem tableCode_cases (nbits w : Nat) :
    (∃ f, tableCode nbits w = .txFrame f) ∨
    (∃ tag l0 l1 type b, tableCode nbits w = .rxFrame (tag :: l0 :: l1 :: type :: b)) ∨
    ∃ v, tableCode nbits w = .cmdWord v := by
  unfold tableCode
  split
  · exact .inl ⟨_, rfl⟩
  · split
    · exact .inr (.inl ⟨_, _, _, _, _, rfl⟩)
    · exact .inr (.inr ⟨_, rfl⟩)

/-- What the decoder reads from a table word is the instruction of its code. -/
theorem decodeTableWord_eq_some {nbits w : Nat} {i : Instr} (h : decodeTableWord nbits w = some i) :
    decode (tableCode nbits w) = .ok i := by
  unfold decodeTableWord at h
  split at h
  next hd => exact hd.trans (congrArg Except.ok (Option.some.inj h))
  next => cases h

/-- Settles O8, by the kind of code that the table word stands for. -/
theorem placedWordRuns : Obligations.PlacedWordRuns := by
  intro s nbits w i h
  have hd := decodeTableWord_eq_some h
  show PlacedCodeRuns (tableCode nbits w) i s
  rcases tableCode_cases nbits w with ⟨f, hc⟩ | ⟨tag, l0, l1, type, b, hc⟩ | ⟨v, hc⟩ <;> rw [hc] at hd ⊢
  · exact placedCodeRuns_txFrame hd s
  · exact placedCodeRuns_rxFrame hd s
  · obtain rfl : decodeCmd v = i := Except.ok.inj hd
    exact placedCodeRuns_cmdWord v s

end Sys2Proof.Machine

/-! The family 10_state: the invariant, the CSR map and who may change which register. -/

namespace Sys2Proof.Machine

/-! ### The request frames and the start rules (R62, R75) -/

/-- A request frame adds at most six bytes to its body (R69). -/
theorem requestBytes_length_le (cb : Bool) (type cmd : Byte) (body : List Byte) :
    (requestBytes cb type cmd body).length ≤ body.length + 6 := by
  cases cb <;> simp [requestBytes] <;> omega

/-- The request frame of the latched command fits the request buffer (R29, R62). -/
theorem requestOf_length_le {cfg : Config} {p : Spe} {f : List Byte} (h : requestOf cfg p = some f) :
    f.length ≤ 12 := by
  have bound : ∀ type cmd body, (body : List Byte).length ≤ 5 →
      some (requestBytes cfg.reqCmdByte type cmd body) = some f → f.length ≤ 12 := by
    rintro type cmd body hb ⟨⟩
    have := requestBytes_length_le cfg.reqCmdByte type cmd body
    omega
  unfold requestOf at h
  split at h
  case h_5 => cases h  -- no other opcode sends a request
  all_goals exact bound _ _ _ (by simp) h

/-- A reserved opcode starts nothing (R112). -/
theorem startOf_reserved {op : BitVec 4} (h : replyType op = none) (cfg : Config) :
    startOf cfg op = endCmd .illegalCmd := by
  rcases opcode_cases op with rfl | rfl | rfl | rfl | rfl | ⟨-, h1, h2, h3, h4, h5⟩
  iterate 5 cases h  -- the five commands have a reply type
  unfold startOf
  split
  case h_6 => rfl
  all_goals contradiction

/-- What the start rule of a latched opcode is: the transaction of its request and reply type, the listening of
READ_STREAM, or ILLEGAL_CMD (R89, R91, R93, R95, R99, R112). -/
theorem startOf_cases (cfg : Config) (p : Spe) :
    (∃ f exp, replyType p.lOp = some exp ∧ requestOf cfg p = some f ∧
      startOf cfg p.lOp p = startTransaction f exp p) ∨
    (p.lOp = 4 ∧ startOf cfg p.lOp p = startListen tyStreamPush p) ∨
    (replyType p.lOp = none ∧ startOf cfg p.lOp p = endCmd .illegalCmd p) := by
  rcases opcode_cases p.lOp with h | h | h | h | h | ⟨h, -⟩
  case inr.inr.inr.inl => exact .inr (.inl ⟨h, by rw [h]; rfl⟩)
  case inr.inr.inr.inr.inr => exact .inr (.inr ⟨h, by rw [startOf_reserved h]⟩)
  all_goals exact .inl ⟨_, _, by rw [h]; rfl, by rw [requestOf, h]; rfl, by rw [h]; rfl⟩

/-! ### The invariant, built up -/

/-- The clauses of the invariant on the data registers, which ending a command does not touch. -/
structure Spe.Held (p : Spe) : Prop where
  cmdLatched : p.cmdOp = p.lOp
  pollOnly : p.lOp ≠ 5 → p.pollCnt = 0 ∧ p.elapsed = 0
  outHeld : p.plen.toNat ≤ p.out.length ∧ p.out.length ≤ 65535 ∧ p.rxbuf.length ≤ 65535
  txHeld : p.txbuf.length ≤ 12
  capHeld : p.lCap ≠ 0 → p.discardCnt ≤ p.lCap

/-- DONE and ERR are clear and there is no result: the registers while a command runs (R75, R113). -/
def Spe.Clean (p : Spe) : Prop :=
  p.done = false ∧ p.errCode = .noError ∧ p.tmoSrc = false ∧ p.result = 0 ∧ p.plen = 0

section
variable {cfg : Config} {p : Spe}

theorem Spe.Inv.held (h : p.Inv cfg) : p.Held := { h with }

theorem Spe.Inv.clean (h : p.Inv cfg) (hrun : p.engine ≠ .idle) : p.Clean := h.runningClean hrun

/-- A pending request is a running command's (R26). -/
theorem ne_idle_of_pending {g : Engine} (h : g.pending = true) : g ≠ .idle := by
  rintro rfl; cases h

/-- An ended command meets the invariant if the kind of its end agrees with the registers (R22, R107, R111). -/
theorem Spe.Held.endCmd (h : p.Held) {k : ErrKind} (htmo : p.tmoSrc = true → k = .timeout ∧ p.lOp = 5)
    (hmod : k = .moduleError → p.lOp = 5 ∧ hasErrorBit p.result = true)
    (hill : k = .illegalCmd → replyType p.lOp = none) : (endCmd k p).Inv cfg :=
  { h with
    replyKnown := fun hrun => absurd rfl hrun
    linkOpen := fun hp => by cases hp
    framePending := fun hs => by cases hs
    sleepBound := fun hs => by cases hs
    runningClean := fun hrun => absurd rfl hrun
    tmoSrcTimeout := htmo
    moduleStatus := hmod
    illegalReserved := fun hk => by rw [endCmd_cmdOp, h.cmdLatched]; exact hill hk
    headerShown := fun hs => by cases hs }

/-- A running command may end with any kind that carries no claim of its own. -/
theorem Spe.Held.endCmd_of_tmoSrc (h : p.Held) (htmo : p.tmoSrc = false) {k : ErrKind} (hmod : k ≠ .moduleError)
    (hill : k ≠ .illegalCmd) : (Machine.endCmd k p).Inv cfg :=
  h.endCmd (fun ht => by simp [htmo] at ht) (fun hk => absurd hk hmod) (fun hk => absurd hk hill)

theorem Spe.Inv.endRunning (h : p.Inv cfg) (hrun : p.engine ≠ .idle) {k : ErrKind} (hmod : k ≠ .moduleError)
    (hill : k ≠ .illegalCmd) : (endCmd k p).Inv cfg := by
  obtain ⟨-, -, htmo, -, -⟩ := h.clean hrun
  exact h.held.endCmd_of_tmoSrc htmo hmod hill

theorem Spe.Held.raiseTimeout (h : p.Held) {src : Bool} (hsrc : src = true → p.lOp = 5) :
    (raiseTimeout src p).Inv cfg :=
  have held : Spe.Held { p with tmoSrc := src } := { h with }
  held.endCmd (fun ht => ⟨rfl, hsrc ht⟩) (fun hk => by cases hk) (fun hk => by cases hk)

/-- A clean running command meets the invariant if its engine state does. -/
theorem Spe.Held.running (h : p.Held) (hc : p.Clean) (hreply : replyType p.lOp = some p.expType)
    (hlink : p.engine.pending = true → p.linkEn = true)
    (hframe : p.engine = .send → requestOf cfg p = some p.pendingFrame)
    (hsleep : p.engine = .sleep → p.lOp = 5 ∧ 1 ≤ p.sleepCnt.toNat ∧ p.sleepCnt.toNat ≤ 100)
    (hhdr : p.engine = .rxBody → p.lastHdr = headerWord p.hdrTag p.hdrLen p.hdrType) : p.Inv cfg := by
  have ⟨_, hk, ht, _, _⟩ := hc
  exact { h with
    replyKnown := fun _ => hreply
    linkOpen := hlink
    framePending := hframe
    sleepBound := hsleep
    runningClean := fun _ => hc
    tmoSrcTimeout := fun h1 => by simp [ht] at h1
    moduleStatus := fun h1 => by simp [hk] at h1
    illegalReserved := fun h1 => by simp [hk] at h1
    headerShown := hhdr }

/-! ### Each operation keeps it -/

/-- The registers that start and discard rules write before they end or go on. -/
theorem Spe.Held.discardCnt_zero (h : p.Held) : Spe.Held { p with discardCnt := 0 } :=
  { h with capHeld := fun _ => by simp [BitVec.le_def] }

theorem Spe.Held.startTransaction (h : p.Held) (hc : p.Clean) {f : List Byte} {exp : Byte}
    (hreply : replyType p.lOp = some exp) (hreq : requestOf cfg p = some f) :
    (startTransaction f exp p).Inv cfg := by
  have hlen := requestOf_length_le hreq
  cases hl : p.linkEn with
  | false =>
    rw [startTransaction_closed hl]
    exact h.discardCnt_zero.endCmd_of_tmoSrc hc.2.2.1 (by decide) (by decide)
  | true =>
    rw [startTransaction_open hl]
    refine Spe.Held.running { h.discardCnt_zero with txHeld := hlen } hc hreply (fun _ => hl) (fun _ => ?_)
      (fun hs => by cases hs) (fun hs => by cases hs)
    have hpend : f.take (BitVec.ofNat 4 f.length).toNat = f := by simp; omega
    exact hreq.trans (congrArg some hpend.symm)

theorem Spe.Held.startListen (h : p.Held) (hc : p.Clean) {exp : Byte} (hreply : replyType p.lOp = some exp) :
    (startListen exp p).Inv cfg := by
  cases hl : p.linkEn with
  | false =>
    rw [startListen_closed hl]
    exact h.discardCnt_zero.endCmd_of_tmoSrc hc.2.2.1 (by decide) (by decide)
  | true =>
    rw [startListen_open hl]
    exact Spe.Held.running { h.discardCnt_zero with } hc hreply (fun _ => hl) (fun hs => by cases hs)
      (fun hs => by cases hs) (fun hs => by cases hs)

/-- An accepted opcode with its start rule (R75). -/
theorem Spe.Inv.accepted (h : p.Inv cfg) (op : BitVec 4) : (startOf cfg op (accept op p)).Inv cfg := by
  have held : (accept op p).Held :=
    { cmdLatched := rfl
      pollOnly := fun _ => ⟨rfl, rfl⟩
      outHeld := ⟨Nat.zero_le _, h.outHeld.2⟩
      txHeld := h.txHeld
      capHeld := fun _ => by simp [BitVec.le_def] }
  have clean : (accept op p).Clean := ⟨rfl, rfl, rfl, rfl, rfl⟩
  rcases startOf_cases cfg (accept op p) with ⟨f, exp, hr, hf, e⟩ | ⟨h4, e⟩ | ⟨hr, e⟩ <;> rw [accept_lOp] at e <;>
    rw [e]
  · exact held.startTransaction clean hr hf
  · exact held.startListen clean (by rw [h4]; rfl)
  · exact held.endCmd (fun ht => by cases ht) (fun hk => by cases hk) (fun _ => hr)

/-- A write to a CSR other than CMD (R34). -/
theorem Spe.Inv.written (h : p.Inv cfg) (c : Csr) (v : Word) : (writeCsr c v p).Inv cfg := by
  cases c with
  | ctrl =>
    show (writeCtrl v p).Inv cfg
    rcases writeCtrl_cases v p with ⟨-, -, hp, e⟩ | ⟨hopen, e⟩ <;> rw [e]
    · obtain ⟨-, -, htmo, -, -⟩ := h.clean (ne_idle_of_pending hp)
      have held : Spe.Held { p with linkEn := false, irqEn := v.getLsbD 1 } := { h with }
      exact held.endCmd_of_tmoSrc htmo (by decide) (by decide)
    · refine { h with linkOpen := fun hp => ?_ }
      rcases hopen with hc | hv | hn
      · exact absurd (h.linkOpen hp) (by simp [hc])
      · exact hv
      · exact absurd hp (by simp [hn])
  | status =>
    exact { h with
      runningClean := fun hrun => by
        obtain ⟨hdone, hrest⟩ := h.clean hrun
        exact ⟨by simp [writeCsr, hdone], hrest⟩ }
  | _ => exact { h with }

/-- A received header is shown in LAST_HDR (R79). -/
theorem Spe.Inv.headerReceived (h : p.Inv cfg) (he : p.engine = .rxHdr) (tag : Byte) (len : BitVec 16)
    (type : Byte) : (headerReceived tag len type p).Inv cfg := by
  have hrun : p.engine ≠ .idle := by simp [he]
  exact Spe.Held.running { h with } (h.clean hrun) (h.replyKnown hrun)
    (fun _ => h.linkOpen (by simp [he, Engine.pending])) (fun hs => by cases hs) (fun hs => by cases hs) (fun _ => rfl)

/-- A received payload fits RXBUF (R29, R56). -/
theorem Spe.Inv.rxbuf (h : p.Inv cfg) {r : List Byte} (hr : r.length ≤ 65535) : Spe.Inv cfg { p with rxbuf := r } :=
  { h with outHeld := ⟨h.outHeld.1, h.outHeld.2.1, hr⟩ }

/-- Below the cap one more foreign frame is counted, at the cap the command ends (R81, R82). -/
theorem Spe.Inv.foreign (h : p.Inv cfg) (he : p.engine = .rxBody) : (foreign p).Inv cfg := by
  have hrun : p.engine ≠ .idle := by simp [he]
  rcases foreign_cases p with ⟨-, -, e⟩ | ⟨hcap, e⟩ <;> rw [e]
  · exact h.endRunning hrun (by decide) (by decide)
  · refine Spe.Held.running { h with capHeld := fun hne => ?_ } (h.clean hrun) (h.replyKnown hrun)
      (fun _ => h.linkOpen (by simp [he, Engine.pending])) (fun hs => by cases hs) (fun hs => by cases hs)
      (fun hs => by cases hs)
    have hlt : p.discardCnt < p.lCap := hcap.resolve_left hne
    have hmax := p.lCap.isLt
    rw [BitVec.lt_def] at hlt
    rw [BitVec.le_def]
    show (satInc p.discardCnt).toNat ≤ p.lCap.toNat
    rw [satInc_of_lt (by omega)]
    omega

/-- A status snapshot ends the poll with its kind or puts it to sleep for 100 ticks (R100). -/
theorem Spe.Inv.judgeStatus (h : p.Inv cfg) (hrun : p.engine ≠ .idle) (h5 : p.lOp = 5) (w : Word) :
    (judgeStatus w p).Inv cfg := by
  have hclean := h.clean hrun
  have ⟨_, _, htmo, _, _⟩ := hclean
  have sleepy : 1 ≤ pollInterval.toNat ∧ pollInterval.toNat ≤ 100 := by decide
  rcases judgeStatus_cases w p with ⟨-, e⟩ | ⟨-, herr, e⟩ | ⟨-, -, -, e⟩ | ⟨-, -, -, e⟩ <;> rw [e]
  · exact h.held.raiseTimeout fun _ => h5
  · have held : Spe.Held { p with result := w } := { h with }
    exact held.endCmd (fun ht => by simp [htmo] at ht) (fun _ => ⟨h5, herr⟩) (fun hk => by cases hk)
  · exact h.endRunning hrun (by decide) (by decide)
  · exact Spe.Held.running { h with } hclean (h.replyKnown hrun) (fun hp => by cases hp) (fun hs => by cases hs)
      (fun _ => ⟨h5, sleepy⟩) (fun hs => by cases hs)

/-- The finish rule of the running command, on a payload that fits OUT (R90, R92, R94, R96, R100). -/
theorem Spe.Inv.finish (h : p.Inv cfg) (hrun : p.engine ≠ .idle) {r : List Byte} (hr : r.length ≤ 65535) :
    (finish r p).Inv cfg := by
  obtain ⟨-, -, htmo, -, -⟩ := h.clean hrun
  have hrx := h.outHeld.2.2
  have houtput : ∀ {o : List Byte}, o.length ≤ 65535 →
      (endCmd .noError { p with out := o, plen := BitVec.ofNat 16 o.length }).Inv cfg := fun {o} ho =>
    have held : Spe.Held { p with out := o, plen := BitVec.ofNat 16 o.length } :=
      { h with outHeld := ⟨by simp; omega, ho, hrx⟩ }
    held.endCmd_of_tmoSrc htmo (by decide) (by decide)
  rcases finish_cases r p with ⟨k, hk, e⟩ | ⟨-, v, -, e⟩ | ⟨-, e⟩ | ⟨-, e⟩ | ⟨h5, w, -, e⟩ <;> rw [e]
  · rcases hk with rfl | rfl | ⟨rfl, hreserved⟩
    · exact h.endRunning hrun (by decide) (by decide)
    · exact h.endRunning hrun (by decide) (by decide)
    · simp [h.replyKnown hrun] at hreserved
  · have held : Spe.Held { p with result := v } := { h with }
    exact held.endCmd_of_tmoSrc htmo (by decide) (by decide)
  · rw [← List.length_drop]
    exact houtput (by simp; omega)
  · exact houtput hr
  · have counted : Spe.Inv cfg { p with pollCnt := satInc p.pollCnt } :=
      { h with pollOnly := fun hne => absurd h5 hne }
    exact counted.judgeStatus hrun h5 w

/-- The body step (R80). -/
theorem Spe.Inv.bodyReceived (h : p.Inv cfg) (he : p.engine = .rxBody) (b : List Byte) :
    (bodyReceived b p).Inv cfg := by
  have hrun : p.engine ≠ .idle := by simp [he]
  rcases bodyReceived_cases b p with ⟨-, e⟩ | ⟨r, hd, hfin⟩
  · rw [e]; exact h.endRunning hrun (by decide) (by decide)
  · obtain ⟨-, -, hlen⟩ := decodeBody_some hd
    have hr : r.length ≤ 65535 := by have := p.hdrLen.isLt; omega
    rcases hfin with ⟨-, e⟩ | ⟨-, e⟩ <;> rw [e]
    · exact (h.rxbuf hr).finish hrun hr
    · exact (h.rxbuf hr).foreign he

/-- A tick counts for a running poll; the last of a sleep starts the next status read (R101). -/
theorem Spe.Inv.tick (h : p.Inv cfg) : (tick cfg p).Inv cfg := by
  have counted (h5 : p.lOp = 5) : Spe.Inv cfg { p with elapsed := satInc p.elapsed } :=
    { h with pollOnly := fun hne => absurd h5 hne }
  rcases tick_cases cfg p with ⟨-, e⟩ | ⟨h5, -, e⟩ | ⟨h5, hs, hz, e⟩ | ⟨h5, hs, -, e⟩ <;> rw [e]
  · exact h
  · exact counted h5
  · refine { counted h5 with sleepBound := fun _ => ⟨h5, ?_⟩ }
    obtain ⟨-, hlo, hhi⟩ := h.sleepBound hs
    have hne : (p.sleepCnt - 1).toNat ≠ 0 := fun h0 => hz (BitVec.eq_of_toNat_eq h0)
    have hdec : (p.sleepCnt - 1).toNat ≤ 100 := by
      rw [BitVec.toNat_sub_of_le (by simpa [BitVec.le_def] using hlo)]; omega
    exact ⟨Nat.pos_of_ne_zero hne, hdec⟩
  · have held : Spe.Held { p with elapsed := satInc p.elapsed, sleepCnt := p.sleepCnt - 1 } := { counted h5 with }
    refine held.startTransaction (h.clean (by simp [hs])) ?_ ?_
    · rw [h5]; rfl
    · simp [requestOf, h5]

/-- The SPE after reset meets the invariant (R128). -/
theorem Spe.Inv.reset : Spe.reset.Inv cfg := by constructor <;> simp [Spe.reset, Engine.pending]

/-- Whatever one event does to the SPE keeps the invariant. -/
theorem Spe.Inv.speStep {q : Spe} (h : p.Inv cfg) (hs : SpeStep cfg p q) : q.Inv cfg := by
  cases hs with
  | same => exact h
  | overrun => exact { h with }
  | accepted _ op => exact h.accepted op
  | written c _ v => exact h.written c v
  | sent he =>
    have hrun : p.engine ≠ .idle := by simp [he]
    exact Spe.Held.running { h with } (h.clean hrun) (h.replyKnown hrun)
      (fun _ => h.linkOpen (by simp [he, Engine.pending])) (fun hs => by cases hs) (fun hs => by cases hs)
      (fun hs => by cases hs)
  | header he tag len type => exact h.headerReceived he tag len type
  | body he b _ => exact h.bodyReceived he b
  | linkTimeout _ => exact h.held.raiseTimeout fun ht => by cases ht
  | linkError he => exact h.endRunning (ne_idle_of_pending he) (by decide) (by decide)
  | ticked => exact h.tick
  | reset => exact .reset

end

/-- Settles O49: `Spe.Inv.speStep` on what the step does to the SPE. -/
theorem stepKeepsTheInvariant : Obligations.StepKeepsTheInvariant := by
  intro s t h hstep
  obtain ⟨hcfg, hspe⟩ := step_speStep hstep
  show t.spe.Inv t.cfg
  rw [hcfg]
  exact Spe.Inv.speStep h hspe

/-! ### The CSR map (R18, R34) -/

/-- The bits of an address that are decoded: bits 1:0 are ignored and bits above 16 too (R34). -/
theorem getLsbD_addressMask : ∀ i < 32, (0x1FFFC : Word).getLsbD i = decide (2 ≤ i ∧ i ≤ 16) := by decide

/-- The decoded bits of an address are bit 16 and the word index (R34). -/
theorem and_addressMask (a : Word) :
    a &&& (0x1FFFC : Word) =
      (if a.getLsbD 16 then 0x10000 else 0 : Word) ||| ((a.extractLsb' 2 14).setWidth 32 <<< 2) := by
  have window : ∀ i < 32, (0x10000 : Word).getLsbD i = decide (i = 16) := by decide
  ext i hi
  simp only [← BitVec.getLsbD_eq_getElem, BitVec.getLsbD_and, getLsbD_addressMask i hi, BitVec.getLsbD_or,
    BitVec.getLsbD_shiftLeft, BitVec.getLsbD_setWidth, BitVec.getLsbD_extractLsb',
    apply_ite (BitVec.getLsbD · i), window i hi]
  grind

/-- The CSR of an address is that of its decoded bits (R34). -/
theorem csrAt_and_addressMask (a : Word) : csrAt (a &&& 0x1FFFC) = csrAt a := by
  have hbit : ∀ i < 32, 2 ≤ i ∧ i ≤ 16 → (a &&& 0x1FFFC).getLsbD i = a.getLsbD i := fun i hi hr => by
    rw [BitVec.getLsbD_and, getLsbD_addressMask i hi, decide_eq_true hr, Bool.and_true]
  have hidx : (a &&& 0x1FFFC).extractLsb' 2 14 = a.extractLsb' 2 14 := by
    ext i hi
    simp only [← BitVec.getLsbD_eq_getElem, BitVec.getLsbD_extractLsb', hbit (2 + i) (by omega) (by omega)]
  simp only [csrAt, hbit 16 (by decide) (by decide), hidx]

/-- An address selects a CSR exactly when its decoded bits are that CSR's offset (R18, R34). -/
theorem csrAt_eq_some_iff {a : Word} {c : Csr} : csrAt a = some c ↔ a &&& 0x1FFFC = csrOffset c := by
  constructor
  · intro h
    rw [and_addressMask]
    unfold csrAt at h
    split at h
    next h16 => cases h; rw [if_pos h16]; rfl
    next h16 =>
      rw [if_neg h16, ← (a.extractLsb' 2 14).ofNat_toNat]
      split at h <;> cases h <;> simp only [*] <;> rfl
  · intro h
    rw [← csrAt_and_addressMask, h, csrAt_csrOffset]

/-- The offset of a word of the PAYLOAD window (R18, R25). -/
theorem csrOffset_payload {k : Nat} (hk : k < 16384) :
    csrOffset (.payload (BitVec.ofNat 14 k)) = BitVec.ofNat 32 (0x10000 + 4 * k) := by
  have hshift : ((BitVec.ofNat 14 k).setWidth 32 <<< 2).toNat = 4 * k := by
    simp [Nat.shiftLeft_eq]; omega
  apply BitVec.eq_of_toNat_eq
  rw [csrOffset, BitVec.toNat_or, hshift, BitVec.toNat_ofNat, Nat.mod_eq_of_lt (by omega)]
  exact (Nat.two_pow_add_eq_or_of_lt (i := 16) (by omega) 1).symm

theorem csrOffset_payload_ge (k : BitVec 14) : 0x10000 ≤ csrOffset (.payload k) := by
  have hk := csrOffset_payload k.isLt
  rw [BitVec.ofNat_toNat, BitVec.setWidth_eq] at hk
  rw [hk, BitVec.le_def]
  simp; omega

/-- Between LAST_HDR and the PAYLOAD window no offset is mapped (R18). -/
theorem csrAt_eq_none {a : Word} (hlo : 0x040 ≤ a &&& 0x1FFFC) (hhi : a &&& 0x1FFFC < 0x10000) : csrAt a = none := by
  cases h : csrAt a with
  | none => rfl
  | some c =>
    rw [csrAt_eq_some_iff.mp h] at hlo hhi
    cases c with
    | payload k => exact absurd (csrOffset_payload_ge k) (BitVec.not_le.mpr hhi)
    | _ => exact absurd hlo (by decide)

/-! ### Host accesses by offset -/

/-- A host write at any address of a CSR other than CMD (R34). -/
theorem takeEvent_memWrite {a : Word} (c : Csr) (hc : c ≠ .cmd) (v : Word) (s : State)
    (ha : a &&& 0x1FFFC = csrOffset c) : takeEvent (.memWrite a v) s = .next { s with spe := writeCsr c v s.spe } := by
  simp only [takeEvent, hostWrite, csrAt_eq_some_iff.mpr ha]
  rfl

/-- A host read at any address of a CSR (R34). -/
theorem memReadWord_of_offset {a : Word} (c : Csr) (p : Spe) (ha : a &&& 0x1FFFC = csrOffset c) :
    memReadWord p a = csrRead p c := by
  simp only [memReadWord, csrAt_eq_some_iff.mpr ha]

/-- A host write at ERR's offset or from RESULT's on is ignored (R18, R24, R25, R34). -/
theorem takeEvent_memWrite_readOnly {a : Word} (v : Word) (s : State)
    (ha : a &&& 0x1FFFC = 0x00C ∨ 0x028 ≤ a &&& 0x1FFFC) : takeEvent (.memWrite a v) s = .next s := by
  simp only [takeEvent, hostWrite]
  cases h : csrAt a with
  | none => rfl
  | some c =>
    rw [csrAt_eq_some_iff.mp h] at ha
    cases c with
    | ctrl | cmd | status | addr | wdata | offset | wanted | maxTime | discardCap => exact absurd ha (by decide)
    | _ => rfl

/-- Settles O39, CSR by CSR. -/
theorem csrWritesFollowTheMap : Obligations.CsrWritesFollowTheMap := by
  intro a v s
  have clear (x b : Bool) : (x && !b) = if b then false else x := by cases b <;> simp
  refine ⟨fun ha => ?_, fun ha => ?_, takeEvent_memWrite .wdata (by decide) v s, fun ha => ?_,
    takeEvent_memWrite .wanted (by decide) v s, takeEvent_memWrite .maxTime (by decide) v s,
    takeEvent_memWrite .discardCap (by decide) v s, takeEvent_memWrite_readOnly v s⟩
  · rw [takeEvent_memWrite .status (by decide) v s ha, writeCsr, writeStatus, clear, clear]
  · rw [takeEvent_memWrite .addr (by decide) v s ha, writeCsr, BitVec.setWidth_eq_extractLsb' (by decide)]
  · rw [takeEvent_memWrite .offset (by decide) v s ha, writeCsr, BitVec.setWidth_eq_extractLsb' (by decide)]

/-! ### The words of the CSRs (R19 to R25) -/

theorem ctrlWord_eq (p : Spe) : ctrlWord p = (if p.linkEn then 1 else 0) + (if p.irqEn then 2 else 0) := by
  cases h0 : p.linkEn <;> cases h1 : p.irqEn <;> simp [ctrlWord, bitAt, h0, h1]

theorem statusWord_toNat (p : Spe) : (statusWord p).toNat =
    (if p.engine = .idle then 0 else 1) + (if p.done then 2 else 0) + (if p.ovr then 4 else 0) +
      256 * p.engine.code.toNat := by
  unfold statusWord Spe.busy
  cases p.engine <;> cases p.done <;> cases p.ovr <;> rfl

theorem errWord_toNat (p : Spe) :
    (errWord p).toNat = p.errCode.code.toNat + (if p.tmoSrc then 256 else 0) := by
  unfold errWord
  cases p.errCode <;> cases p.tmoSrc <;> rfl

/-- Settles O41, CSR by CSR. -/
theorem csrReadWords : Obligations.CsrReadWords := by
  intro a p
  have word (c : Csr) := memReadWord_of_offset (a := a) c p
  have narrow {w : Nat} (c : Csr) (x : BitVec w) (hw : w ≤ 32) (hx : csrRead p c = x.setWidth 32)
      (ha : a &&& 0x1FFFC = csrOffset c) : (memReadWord p a).toNat = x.toNat := by
    rw [word c ha, hx, BitVec.toNat_setWidth_of_le hw]
  refine ⟨fun ha => ?_, narrow .cmd p.cmdOp (by decide) rfl, fun ha => ?_, fun ha => ?_,
    narrow .addr p.addr (by decide) rfl, word .wdata, narrow .offset p.offset (by decide) rfl, word .wanted,
    word .maxTime, word .discardCap, word .result, narrow .plen p.plen (by decide) rfl, word .discardCnt,
    word .pollCnt, word .elapsed, word .lastHdr, fun hlo hhi => ?_⟩
  · rw [word .ctrl ha, csrRead, ctrlWord_eq]
  · rw [word .status ha, csrRead, statusWord_toNat]
    cases p.engine <;> rfl
  · rw [word .err ha, csrRead, errWord_toNat]
    cases p.errCode <;> rfl
  · simp only [memReadWord, csrAt_eq_none hlo hhi]

/-- Byte `j` of an assembled word is its byte `j` (R11). -/
theorem payloadWord_byte (p : Spe) (k : Nat) {j : Nat} (hj : j < 4) :
    (payloadWord p k).extractLsb' (8 * j) 8 = payloadByte p (4 * k + j) := by
  have hbytes := le32_u32le (payloadByte p (4 * k)) (payloadByte p (4 * k + 1)) (payloadByte p (4 * k + 2))
    (payloadByte p (4 * k + 3))
  simp only [le32, List.cons.injEq, and_true] at hbytes
  obtain ⟨h0, h1, h2, h3⟩ := hbytes
  interval_cases j
  · exact h0
  · exact h1
  · exact h2
  · exact h3

/-- Settles O42: a word of the window is four bytes of OUT, and a write to it is one to a read-only offset. -/
theorem payloadWindow : Obligations.PayloadWindow := by
  intro s v k j hk hj
  have hcsr : csrAt (BitVec.ofNat 32 (0x10000 + 4 * k)) = some (.payload (BitVec.ofNat 14 k)) := by
    rw [← csrOffset_payload hk, csrAt_csrOffset]
  constructor
  · have hidx : (BitVec.ofNat 14 k).toNat = k := by simp; omega
    simp only [memReadWord, hcsr, csrRead, hidx, payloadWord_byte _ _ hj, payloadByte]
  · refine takeEvent_memWrite_readOnly v s (.inr ?_)
    rw [csrAt_eq_some_iff.mp hcsr]
    exact Nat.le_trans (by decide) (csrOffset_payload_ge _)

/-! ### What each event does (R74) -/

/-- What the Link's answer does to the SPE and which bytes the Link takes, if the answer is enabled: R78 to R80
without the decoding of the frames. -/
def answerEffect (ans : LinkAnswer) (p : Spe) : Option (Spe × List Byte) :=
  match p.engine, ans with
  | .send, .wrOk => some ({ p with engine := .rxHdr }, p.pendingFrame)
  | .send, .wrIoErr => some (endCmd .ioError p, [])
  | .rxHdr, .rdData h => (decodeHeader h).map fun hdr => (headerReceived hdr.1 hdr.2.1 hdr.2.2 p, [])
  | .rxBody, .rdData b => if b.length = p.hdrLen.toNat + 1 then some (bodyReceived b p, []) else none
  | .rxHdr, .rdTimeout | .rxBody, .rdTimeout => some (raiseTimeout false p, [])
  | .rxHdr, .rdIoErr | .rxBody, .rdIoErr => some (endCmd .ioError p, [])
  | _, _ => none

/-- The state after the Link's answer. -/
def afterAnswer (s : State) (r : Option (Spe × List Byte)) : Host.Outcome State Fault Refusal :=
  match r with
  | some (q, bs) => .next { s with spe := q, linkOut := s.linkOut ++ bs }
  | none => .refused .eventNotEnabled

@[simp] theorem afterAnswer_none (s : State) : afterAnswer s none = .refused .eventNotEnabled := rfl

@[simp] theorem afterAnswer_some_nil (s : State) (q : Spe) :
    afterAnswer s (some (q, [])) = .next { s with spe := q } := by
  simp [afterAnswer]

/-- `WR_OK` in SEND takes the pending frame, whichever row it is (R78). -/
theorem answerSend_wrOk {s : State} (he : s.spe.engine = .send) : answerSend .wrOk s = .next (requestWritten s) := by
  simp only [answerSend]
  split
  next i hi => rw [(exec_of_decodeTx hi).2, writeFrame_pending he rfl]
  next => rfl

/-- A body of the announced length is received, whichever row its frame is (R80). -/
theorem answerBody_rdData {s : State} (he : s.spe.engine = .rxBody) (b : List Byte) :
    answerBody (.rdData b) s =
      if b.length = s.spe.hdrLen.toNat + 1 then .next { s with spe := bodyReceived b s.spe }
      else .refused .eventNotEnabled := by
  simp only [answerBody]
  split
  next hb =>
    split
    next i hi =>
      obtain ⟨p, term, rfl, -, hexec⟩ := exec_of_decodeRx hi
      rw [hexec, receiveFrame_pending he rfl rfl (by simpa using hb.symm)]
    next => rfl
  next => rfl

/-- The Link's answer has its effect on the SPE, or is refused where R74 does not enable it. -/
theorem takeEvent_link (ans : LinkAnswer) (s : State) :
    takeEvent (.link ans) s = afterAnswer s (answerEffect ans s.spe) := by
  simp only [takeEvent, linkAnswer, answerEffect]
  cases he : s.spe.engine with
  | idle | sleep => cases ans <;> rfl
  | send =>
    cases ans with
    | wrOk => exact answerSend_wrOk he
    | _ => simp [answerSend]
  | rxHdr =>
    cases ans with
    | rdData h => cases hd : decodeHeader h <;> simp [answerHeader, hd]
    | _ => simp [answerHeader]
  | rxBody =>
    cases ans with
    | rdData b =>
      rw [answerBody_rdData he]
      by_cases hb : b.length = s.spe.hdrLen.toNat + 1 <;> simp [hb]
    | _ => simp [answerBody]

/-- The event is a write of a command word: a host write to CMD, or a host line that is one (R66, R75). -/
def Event.IssuesCommand (e : Event) (s : State) : Prop :=
  (∃ a v, e = .memWrite a v ∧ csrAt a = some .cmd) ∨
  (e = .hostLine ∧ ∃ ls, (∃ v, s.hostProg = .csrw .cmd v :: ls) ∨
    (∃ i w, s.hostProg = .run i :: ls ∧ encode i = .cmdWord w))

/-- A host access that issues no command: it is ignored, or writes a CSR. -/
def AccessStep (p q : Spe) : Prop := q = p ∨ ∃ c v, q = writeCsr c v p

/-- What event `e`, taken in `s`, makes of the SPE. -/
inductive EventStep (s : State) : Event → Spe → Prop where
  | command {e : Event} (h : e.IssuesCommand s) (op : BitVec 4) :
      EventStep s e (issue op (startOf s.cfg op) s.spe)
  | write {a v : Word} {q : Spe} (ha : csrAt a ≠ some .cmd) (h : AccessStep s.spe q) : EventStep s (.memWrite a v) q
  | read {a : Word} : EventStep s (.memRead a) s.spe
  | line {q : Spe} (h : AccessStep s.spe q) : EventStep s .hostLine q
  | link {ans : LinkAnswer} {q : Spe} {bs : List Byte} (h : answerEffect ans s.spe = some (q, bs)) :
      EventStep s (.link ans) q
  | tick : EventStep s .tick (tick s.cfg s.spe)
  | reset : EventStep s .reset Spe.reset

/-- A line that names no command is an access (R66, R67). -/
theorem plainLine_access (l : HostLine) (s : State) : AccessStep s.spe (plainLine l s).spe := by
  cases l with
  | csrw c v => exact .inr ⟨c, v, rfl⟩
  | waitNotBusy => simp only [plainLine]; split <;> exact .inl rfl
  | waitIrq => simp only [plainLine]; split <;> exact .inl rfl
  | _ => exact .inl rfl

theorem beginMacro_access (ls : List HostLine) (s : State) : AccessStep s.spe (beginMacro ls s).spe := by
  cases ls with
  | nil => exact .inl rfl
  | cons l rest => exact plainLine_access l (s.queue rest)

/-- What a host line runs: a command word's instruction, or a pseudo-instruction's lines (R66, R67). -/
theorem exec_of_isHostLine {i : Instr} (h : isHostLine i = true) (s : State) :
    (∃ w op, encode i = .cmdWord w ∧ exec i s = issueCommand op (startOf s.cfg op) s) ∨
    ∃ ls, exec i s = .next (beginMacro ls s) := by
  cases i with
  | writeReg ign => exact .inl ⟨_, 1, rfl, rfl⟩
  | readReg ign => exact .inl ⟨_, 2, rfl, rfl⟩
  | readBuf ign => exact .inl ⟨_, 3, rfl, rfl⟩
  | readStream ign => exact .inl ⟨_, 4, rfl, rfl⟩
  | pollStatus ign => exact .inl ⟨_, 5, rfl, rfl⟩
  | illegal0 ign => exact .inl ⟨_, 0, rfl, rfl⟩
  | illegal67 lo ign =>
    have hres : ∀ b : BitVec 1, replyType (0b011#3 ++ b) = none := by decide
    exact .inl ⟨_, _, rfl, by rw [startOf_reserved (hres lo)]; rfl⟩
  | illegal8F lo ign =>
    have hres : ∀ b : BitVec 3, replyType (0b1#1 ++ b) = none := by decide
    exact .inl ⟨_, _, rfl, by rw [startOf_reserved (hres lo)]; rfl⟩
  | doWriteReg | doReadReg | doReadBuf | doPoll | waitStart | waitData | waitDone => exact .inr ⟨_, rfl⟩
  | _ => cases h  -- a wire frame is no host line

/-- A host write issues a command at CMD and is an access elsewhere (R34, R75). -/
theorem hostWrite_cases {a v : Word} {s t : State} (h : hostWrite a v s = .next t) :
    (csrAt a = some .cmd ∧ ∃ op, t.spe = issue op (startOf s.cfg op) s.spe) ∨
    (csrAt a ≠ some .cmd ∧ AccessStep s.spe t.spe) := by
  unfold hostWrite at h
  split at h
  next hc =>
    rw [exec_decodeCmd] at h
    cases h
    exact .inl ⟨hc, _, rfl⟩
  next c hcmd hc =>
    cases h
    exact .inr ⟨fun e => hcmd (Option.some.inj (hc.symm.trans e)), .inr ⟨c, v, rfl⟩⟩
  next hc =>
    cases h
    exact .inr ⟨by simp [hc], .inl rfl⟩

/-- An event that is taken does what `EventStep` says. -/
theorem takeEvent_eventStep {e : Event} {s t : State} (h : takeEvent e s = .next t) : EventStep s e t.spe := by
  cases e with
  | memWrite a v =>
    rcases hostWrite_cases h with ⟨hc, op, ht⟩ | ⟨hc, hq⟩
    · rw [ht]; exact .command (.inl ⟨a, v, rfl, hc⟩) op
    · exact .write hc hq
  | memRead a => cases h; exact .read
  | hostLine =>
    simp only [takeEvent, hostTurn] at h
    split at h
    · cases h
    next c v ls hp =>
      rcases hostWrite_cases h with ⟨hc, op, ht⟩ | ⟨-, hq⟩
      · obtain rfl : c = .cmd := Option.some.inj ((csrAt_csrOffset c).symm.trans hc)
        rw [ht]; exact .command (.inr ⟨rfl, ls, .inl ⟨v, hp⟩⟩) op
      · exact .line hq
    next i ls hp =>
      split at h
      next hi =>
        rcases exec_of_isHostLine hi { s with hostProg := ls } with ⟨w, op, hw, e⟩ | ⟨ls', e⟩ <;> rw [e] at h <;>
          cases h
        · exact .command (.inr ⟨rfl, ls, .inr ⟨i, w, hp, hw⟩⟩) op
        · exact .line (beginMacro_access ls' _)
      next => cases h
    next l ls _ _ hp => cases h; exact .line (plainLine_access l _)
  | link ans =>
    rw [takeEvent_link] at h
    cases hr : answerEffect ans s.spe with
    | none => rw [hr] at h; cases h
    | some r => rw [hr] at h; cases h; exact .link hr
  | tick => cases h; exact .tick
  | reset => cases h; exact .reset

/-! ### Who changes ERR (R32, R113) -/

/-- ERR is as it was, or a running command has ended. -/
def ErrKeptOrEnded (p q : Spe) : Prop :=
  (q.errCode = p.errCode ∧ q.tmoSrc = p.tmoSrc) ∨ (p.engine ≠ .idle ∧ q.engine = .idle ∧ q.done = true)

section
variable {p q : Spe}

theorem writeCsr_errKeptOrEnded (c : Csr) (v : Word) (p : Spe) : ErrKeptOrEnded p (writeCsr c v p) := by
  cases c with
  | ctrl =>
    show ErrKeptOrEnded p (writeCtrl v p)
    rcases writeCtrl_cases v p with ⟨-, -, hp, e⟩ | ⟨-, e⟩ <;> rw [e]
    · exact .inr ⟨ne_idle_of_pending hp, rfl, rfl⟩
    · exact .inl ⟨rfl, rfl⟩
  | _ => exact .inl ⟨rfl, rfl⟩

theorem AccessStep.errKeptOrEnded (h : AccessStep p q) : ErrKeptOrEnded p q := by
  rcases h with rfl | ⟨c, v, rfl⟩
  · exact .inl ⟨rfl, rfl⟩
  · exact writeCsr_errKeptOrEnded c v p

theorem finish_errKeptOrEnded (hrun : p.engine ≠ .idle) (r : List Byte) : ErrKeptOrEnded p (finish r p) := by
  rcases finish_cases r p with ⟨k, -, e⟩ | ⟨-, v, -, e⟩ | ⟨-, e⟩ | ⟨-, e⟩ | ⟨-, w, -, e⟩ <;> rw [e]
  case inr.inr.inr.inr =>
    rcases judgeStatus_cases w { p with pollCnt := satInc p.pollCnt } with
      ⟨-, e⟩ | ⟨-, -, e⟩ | ⟨-, -, -, e⟩ | ⟨-, -, -, e⟩ <;> rw [e]
    case inr.inr.inr => exact .inl ⟨rfl, rfl⟩  -- the poll sleeps
    all_goals exact .inr ⟨hrun, rfl, rfl⟩
  all_goals exact .inr ⟨hrun, rfl, rfl⟩

theorem foreign_errKeptOrEnded (hrun : p.engine ≠ .idle) : ErrKeptOrEnded p (foreign p) := by
  rcases foreign_cases p with ⟨-, -, e⟩ | ⟨-, e⟩ <;> rw [e]
  · exact .inr ⟨hrun, rfl, rfl⟩
  · exact .inl ⟨rfl, rfl⟩

theorem bodyReceived_errKeptOrEnded (hrun : p.engine ≠ .idle) (b : List Byte) :
    ErrKeptOrEnded p (bodyReceived b p) := by
  rcases bodyReceived_cases b p with ⟨-, e⟩ | ⟨r, -, ⟨-, e⟩ | ⟨-, e⟩⟩ <;> rw [e]
  · exact .inr ⟨hrun, rfl, rfl⟩
  · exact finish_errKeptOrEnded (p := { p with rxbuf := r }) hrun r
  · exact foreign_errKeptOrEnded (p := { p with rxbuf := r }) hrun

theorem answerEffect_errKeptOrEnded {ans : LinkAnswer} {bs : List Byte} (h : answerEffect ans p = some (q, bs)) :
    ErrKeptOrEnded p q := by
  unfold answerEffect at h
  split at h
  case h_9 => cases h  -- no such answer is enabled
  case h_1 => cases h; exact .inl ⟨rfl, rfl⟩
  case h_3 =>
    obtain ⟨hdr, -, hq⟩ := Option.map_eq_some_iff.mp h
    cases hq; exact .inl ⟨rfl, rfl⟩
  case h_4 he =>
    split at h <;> cases h
    exact bodyReceived_errKeptOrEnded (by simp [he]) _
  all_goals cases h; exact .inr ⟨by simp [*], rfl, rfl⟩

theorem startTransaction_errKeptOrEnded (hrun : p.engine ≠ .idle) (f : List Byte) (exp : Byte) :
    ErrKeptOrEnded p (startTransaction f exp p) := by
  cases hl : p.linkEn with
  | true => rw [startTransaction_open hl]; exact .inl ⟨rfl, rfl⟩
  | false => rw [startTransaction_closed hl]; exact .inr ⟨hrun, rfl, rfl⟩

theorem tick_errKeptOrEnded (cfg : Config) (p : Spe) : ErrKeptOrEnded p (tick cfg p) := by
  rcases tick_cases cfg p with ⟨-, e⟩ | ⟨-, -, e⟩ | ⟨-, -, -, e⟩ | ⟨-, hs, -, e⟩ <;> rw [e]
  case inr.inr.inr =>
    exact startTransaction_errKeptOrEnded
      (p := { p with elapsed := satInc p.elapsed, sleepCnt := p.sleepCnt - 1 }) (by simp [hs]) _ _
  all_goals exact .inl ⟨rfl, rfl⟩

/-- An accepted command runs with ERR clear or ends in the same step, on a closed transport or with a reserved
opcode (R75, R76, R77, R112). -/
theorem startOf_accept_err (cfg : Config) (op : BitVec 4) (h : q = startOf cfg op (accept op p)) :
    q.tmoSrc = false ∧
    ((q.engine ≠ .idle ∧ q.errCode = .noError ∧ q.done = false) ∨
      (q.engine = .idle ∧ (q.errCode = .ioError ∨ q.errCode = .illegalCmd) ∧ q.done = true)) := by
  subst h
  rcases startOf_cases cfg (accept op p) with ⟨f, exp, -, -, e⟩ | ⟨-, e⟩ | ⟨-, e⟩ <;> rw [accept_lOp] at e <;> rw [e]
  · cases hl : (accept op p).linkEn with
    | true => rw [startTransaction_open hl]; exact ⟨rfl, .inl ⟨by simp, rfl, rfl⟩⟩
    | false => rw [startTransaction_closed hl]; exact ⟨rfl, .inr ⟨rfl, .inl rfl, rfl⟩⟩
  · cases hl : (accept op p).linkEn with
    | true => rw [startListen_open hl]; exact ⟨rfl, .inl ⟨by simp, rfl, rfl⟩⟩
    | false => rw [startListen_closed hl]; exact ⟨rfl, .inr ⟨rfl, .inl rfl, rfl⟩⟩
  · exact ⟨rfl, .inr ⟨rfl, .inr rfl, rfl⟩⟩

end

/-- Settles O50, by what each event does: a command accepted in IDLE clears ERR, and every other event keeps it,
ends a running command or is a reset. -/
theorem errChangesOnlyAtEndOrAcceptance : Obligations.ErrChangesOnlyAtEndOrAcceptance := by
  intro e s t h hchange
  have hstep := takeEvent_eventStep h
  have unlessKept (hk : ErrKeptOrEnded s.spe t.spe) :
      s.spe.engine ≠ .idle ∧ t.spe.engine = .idle ∧ t.spe.done = true :=
    hk.resolve_left fun ⟨hcode, hsrc⟩ => hchange.elim (· hcode) (· hsrc)
  generalize t.spe = q at *
  cases hstep with
  | command hissue op =>
    by_cases hidle : s.spe.engine = .idle
    · exact .inr (.inl ⟨hidle, hissue, startOf_accept_err s.cfg op (issue_idle hidle ..)⟩)
    · exact .inl (unlessKept (by rw [issue_busy hidle]; exact .inl ⟨rfl, rfl⟩))
  | write _ ha => exact .inl (unlessKept ha.errKeptOrEnded)
  | read => exact .inl (unlessKept (.inl ⟨rfl, rfl⟩))
  | line ha => exact .inl (unlessKept ha.errKeptOrEnded)
  | link ha => exact .inl (unlessKept (answerEffect_errKeptOrEnded ha))
  | tick => exact .inl (unlessKept (tick_errKeptOrEnded ..))
  | reset => exact .inr (.inr rfl)

/-- A body without the terminator is a framing error (R80). -/
theorem bodyReceived_of_none {p : Spe} {b : List Byte} (h : decodeBody p.hdrLen b = none) :
    bodyReceived b p = endCmd .framing p := by
  simp only [bodyReceived, h]

/-- A body with its terminator goes to the finish rule or the discard rule by its type (R80). -/
theorem bodyReceived_of_some {p : Spe} {b r : List Byte} (h : decodeBody p.hdrLen b = some r) :
    bodyReceived b p =
      if p.hdrType = p.expType then finish r { p with rxbuf := r } else foreign { p with rxbuf := r } := by
  simp only [bodyReceived, h]

/-! ### Who reads and who writes the argument CSRs (R15, R27) -/

/-- The SPE `p` with the six argument CSRs of `q` (R23). -/
def Spe.withArgsOf (q p : Spe) : Spe :=
  { p with
    addr := q.addr, wdata := q.wdata, offset := q.offset, wanted := q.wanted, maxTime := q.maxTime
    discardCap := q.discardCap }

section
variable (q p : Spe)

/-! The operations of a running command read and write no argument CSR. -/

theorem startTransaction_withArgsOf (f : List Byte) (exp : Byte) :
    startTransaction f exp (q.withArgsOf p) = q.withArgsOf (startTransaction f exp p) := by
  unfold startTransaction
  rw [apply_ite q.withArgsOf]
  rfl

theorem startListen_withArgsOf (exp : Byte) : startListen exp (q.withArgsOf p) = q.withArgsOf (startListen exp p) := by
  unfold startListen
  rw [apply_ite q.withArgsOf]
  rfl

theorem startOf_withArgsOf (cfg : Config) (op : BitVec 4) :
    startOf cfg op (q.withArgsOf p) = q.withArgsOf (startOf cfg op p) := by
  rcases opcode_cases op with rfl | rfl | rfl | rfl | rfl | ⟨hres, -⟩
  case inr.inr.inr.inl => exact startListen_withArgsOf q p _
  case inr.inr.inr.inr.inr => rw [startOf_reserved hres]; rfl
  all_goals exact startTransaction_withArgsOf q p _ _

theorem foreign_withArgsOf : foreign (q.withArgsOf p) = q.withArgsOf (foreign p) := by
  unfold foreign
  rw [apply_ite q.withArgsOf]
  rfl

theorem judgeStatus_withArgsOf (w : Word) : judgeStatus w (q.withArgsOf p) = q.withArgsOf (judgeStatus w p) := by
  unfold judgeStatus
  iterate 3 rw [apply_ite q.withArgsOf]
  rfl

theorem finishPollStatus_withArgsOf (r : List Byte) :
    finishPollStatus r (q.withArgsOf p) = q.withArgsOf (finishPollStatus r p) := by
  unfold finishPollStatus
  rw [apply_ite q.withArgsOf]
  cases replyValue r with
  | none => rfl
  | some w =>
    dsimp only
    rw [← judgeStatus_withArgsOf]
    rfl

theorem finish_withArgsOf (r : List Byte) : finish r (q.withArgsOf p) = q.withArgsOf (finish r p) := by
  rcases opcode_cases p.lOp with h | h | h | h | h | ⟨h, -⟩
  · rw [finish_writeReg h, finish_writeReg (p := q.withArgsOf p) h, finishWriteReg, finishWriteReg,
      apply_ite q.withArgsOf]
    rfl
  · rw [finish_readReg h, finish_readReg (p := q.withArgsOf p) h, finishReadReg, finishReadReg,
      apply_ite q.withArgsOf]
    cases replyValue r <;> rfl
  · rw [finish_readBuf h, finish_readBuf (p := q.withArgsOf p) h, finishReadBuf, finishReadBuf,
      apply_ite q.withArgsOf]
    rfl
  · rw [finish_readStream h, finish_readStream (p := q.withArgsOf p) h]
    rfl
  · rw [finish_pollStatus h, finish_pollStatus (p := q.withArgsOf p) h, finishPollStatus_withArgsOf]
  · rw [finish_reserved h, finish_reserved (p := q.withArgsOf p) h]
    rfl

theorem bodyReceived_withArgsOf (b : List Byte) :
    bodyReceived b (q.withArgsOf p) = q.withArgsOf (bodyReceived b p) := by
  cases hd : decodeBody p.hdrLen b with
  | none =>
    rw [bodyReceived_of_none hd, bodyReceived_of_none (p := q.withArgsOf p) hd]
    rfl
  | some r =>
    rw [bodyReceived_of_some hd, bodyReceived_of_some (p := q.withArgsOf p) hd, apply_ite q.withArgsOf,
      ← finish_withArgsOf, ← foreign_withArgsOf]
    rfl

theorem tick_withArgsOf (cfg : Config) : tick cfg (q.withArgsOf p) = q.withArgsOf (tick cfg p) := by
  unfold tick wakeIfDue statusRead
  iterate 3 rw [apply_ite q.withArgsOf]
  rw [← startTransaction_withArgsOf]
  rfl

@[simp] theorem withArgsOf_engine : (q.withArgsOf p).engine = p.engine := rfl
@[simp] theorem withArgsOf_hdrLen : (q.withArgsOf p).hdrLen = p.hdrLen := rfl

theorem answerEffect_withArgsOf (ans : LinkAnswer) :
    answerEffect ans (q.withArgsOf p) = (answerEffect ans p).map (Prod.map q.withArgsOf id) := by
  cases he : p.engine with
  | rxHdr =>
    simp only [answerEffect, withArgsOf_engine, he]
    cases ans with
    | rdData h =>
      dsimp only
      rw [Option.map_map]
      rfl
    | _ => rfl
  | rxBody =>
    simp only [answerEffect, withArgsOf_engine, he]
    cases ans with
    | rdData b =>
      simp only [bodyReceived_withArgsOf, withArgsOf_hdrLen]
      split <;> rfl
    | _ => rfl
  | _ =>
    simp only [answerEffect, withArgsOf_engine, he]
    cases ans <;> rfl

end

/-- Settles O53: the answer's effect and the tick commute with other argument CSRs. -/
theorem argumentsAreLatched : Obligations.ArgumentsAreLatched := by
  intro e s addr wdata offset wanted maxTime cap h
  let q : Spe := (s.withArgs addr wdata offset wanted maxTime cap).spe
  rcases h with ⟨ans, rfl⟩ | rfl
  · rw [takeEvent_link, takeEvent_link]
    show afterAnswer _ (answerEffect ans (q.withArgsOf s.spe)) = _
    rw [answerEffect_withArgsOf]
    cases answerEffect ans s.spe <;> rfl
  · have htick := tick_withArgsOf q s.spe s.cfg
    exact congrArg (fun p => Host.Outcome.next { s with spe := p }) htick

/-- An SPE that has the arguments of `p` whatever it had before agrees with `p` on each of them. -/
theorem args_eq_of_withArgsOf {p q : Spe} (h : p.withArgsOf q = q) :
    q.addr = p.addr ∧ q.wdata = p.wdata ∧ q.offset = p.offset ∧ q.wanted = p.wanted ∧ q.maxTime = p.maxTime ∧
      q.discardCap = p.discardCap := by
  rw [← h]
  exact ⟨rfl, rfl, rfl, rfl, rfl, rfl⟩

/-- Issuing a command writes no argument CSR (R15, R75). -/
theorem issue_withArgsOf (cfg : Config) (op : BitVec 4) (p : Spe) :
    p.withArgsOf (issue op (startOf cfg op) p) = issue op (startOf cfg op) p := by
  by_cases hidle : p.engine = .idle
  · rw [issue_idle hidle, ← startOf_withArgsOf]
    rfl
  · rw [issue_busy hidle]
    rfl

/-- A write to a CSR other than CMD writes no result CSR and no byte of OUT (R15). -/
theorem writeCsr_results (c : Csr) (v : Word) (p : Spe) :
    (writeCsr c v p).result = p.result ∧ (writeCsr c v p).plen = p.plen ∧
    (writeCsr c v p).discardCnt = p.discardCnt ∧ (writeCsr c v p).pollCnt = p.pollCnt ∧
    (writeCsr c v p).elapsed = p.elapsed ∧ (writeCsr c v p).lastHdr = p.lastHdr ∧ (writeCsr c v p).out = p.out := by
  cases c with
  | ctrl =>
    rw [writeCsr]
    rcases writeCtrl_cases v p with ⟨-, -, -, e⟩ | ⟨-, e⟩ <;> rw [e] <;> exact ⟨rfl, rfl, rfl, rfl, rfl, rfl, rfl⟩
  | _ => exact ⟨rfl, rfl, rfl, rfl, rfl, rfl, rfl⟩

/-- Settles O52, by what each event does to the SPE. -/
theorem argumentsAndResultsHaveOneWriter : Obligations.ArgumentsAndResultsHaveOneWriter := by
  intro e s t h
  have hstep := takeEvent_eventStep h
  refine ⟨fun hcmd => args_eq_of_withArgsOf ?_, ?_⟩
  · generalize t.spe = q at hstep ⊢
    cases hstep with
    | command _ op => exact issue_withArgsOf s.cfg op s.spe
    | write ha => simp [ha] at hcmd
    | read => rfl
    | line => simp at hcmd
    | @link ans q bs heff =>
      have hkept := answerEffect_withArgsOf s.spe s.spe ans
      rw [show s.spe.withArgsOf s.spe = s.spe from rfl, heff] at hkept
      exact (congrArg Prod.fst (Option.some.inj hkept)).symm
    | tick => exact (tick_withArgsOf s.spe s.spe s.cfg).symm
    | reset => simp at hcmd
  · rintro ⟨a, v, rfl, ha⟩
    generalize t.spe = q at hstep ⊢
    cases hstep with
    | command hissue => simp [Event.IssuesCommand, ha] at hissue
    | write _ hq =>
      rcases hq with rfl | ⟨c, w, rfl⟩
      · exact ⟨rfl, rfl, rfl, rfl, rfl, rfl, rfl⟩
      · exact writeCsr_results c w s.spe

end Sys2Proof.Machine

/-! The family 20_memory: host accesses by address, the bytes that leave, and who changes OUT and the results. -/

namespace Sys2Proof.Machine

/-! ### Host accesses (R41, R43) -/

/-- Settles O40: a host read is the operation `State.memRead`. -/
theorem readsHaveNoSideEffect : Obligations.ReadsHaveNoSideEffect := fun _ _ => rfl

/-- A host write is always taken and changes nothing but the SPE (R34, R41). -/
theorem hostWrite_next (a v : Word) (s : State) : ∃ q, hostWrite a v s = .next { s with spe := q } := by
  cases ha : csrAt a with
  | none => exact ⟨s.spe, by rw [hostWrite, ha]⟩
  | some c =>
    by_cases hc : c = .cmd
    · rw [hostWrite_of_csrAt_cmd (hc ▸ ha), exec_decodeCmd]
      exact ⟨_, rfl⟩
    · exact ⟨writeCsr c v s.spe, takeEvent_memWrite c hc v s (csrAt_eq_some_iff.mp ha)⟩

/-- Settles O43: both accesses see of the address only the CSR it selects, which its decoded bits give. -/
theorem accessesUseTheWordAddress : Obligations.AccessesUseTheWordAddress := by
  intro a v s
  obtain ⟨q, hwrite⟩ := hostWrite_next a v s
  refine ⟨?_, ?_, ⟨_, hwrite⟩, ⟨_, rfl⟩⟩
  · simp only [takeEvent, hostWrite, csrAt_and_addressMask]
  · simp only [takeEvent, State.memRead, memReadWord, csrAt_and_addressMask]

/-! ### The bytes that leave the SPE (R37, R49, R78) -/

@[simp] theorem plainLine_linkOut (l : HostLine) (s : State) : (plainLine l s).linkOut = s.linkOut := by
  cases l with
  | waitNotBusy => simp only [plainLine]; split <;> rfl
  | waitIrq => simp only [plainLine]; split <;> rfl
  | _ => rfl

@[simp] theorem beginMacro_linkOut (ls : List HostLine) (s : State) : (beginMacro ls s).linkOut = s.linkOut := by
  cases ls with
  | nil => rfl
  | cons l rest => exact plainLine_linkOut l (s.queue rest)

theorem hostWrite_linkOut {a v : Word} {s t : State} (h : hostWrite a v s = .next t) : t.linkOut = s.linkOut := by
  obtain ⟨q, e⟩ := hostWrite_next a v s
  rw [e] at h
  cases h
  rfl

/-- No line of a host program sends bytes: a frame is written by the Link alone (R49, R66). -/
theorem hostTurn_linkOut {s t : State} (h : hostTurn s = .next t) : t.linkOut = s.linkOut := by
  unfold hostTurn at h
  split at h
  · cases h
  next c v ls _ => exact hostWrite_linkOut (s := { s with hostProg := ls }) h
  next i ls _ =>
    split at h
    next hi =>
      rcases exec_of_isHostLine hi { s with hostProg := ls } with ⟨w, op, -, e⟩ | ⟨ls', e⟩ <;> rw [e] at h <;> cases h
      · rfl
      · exact beginMacro_linkOut ls' _
    next => cases h
  next l ls _ _ _ => cases h; exact plainLine_linkOut l _

/-- What an enabled answer of the Link does to the SPE and which bytes the Link takes (R78 to R80). -/
inductive AnswerStep (p : Spe) : LinkAnswer → Spe → List Byte → Prop where
  | sent (he : p.engine = .send) : AnswerStep p .wrOk { p with engine := .rxHdr } p.pendingFrame
  | header (he : p.engine = .rxHdr) {h : List Byte} {tag : Byte} {len : BitVec 16} {type : Byte}
      (hd : decodeHeader h = some (tag, len, type)) : AnswerStep p (.rdData h) (headerReceived tag len type p) []
  | body (he : p.engine = .rxBody) {b : List Byte} (hb : b.length = p.hdrLen.toNat + 1) :
      AnswerStep p (.rdData b) (bodyReceived b p) []
  | timeout (he : p.engine.pending = true) : AnswerStep p .rdTimeout (raiseTimeout false p) []
  | error (he : p.engine.pending = true) {ans : LinkAnswer} : AnswerStep p ans (endCmd .ioError p) []

theorem answerEffect_step {ans : LinkAnswer} {p q : Spe} {bs : List Byte} (h : answerEffect ans p = some (q, bs)) :
    AnswerStep p ans q bs := by
  have pending {g : Engine} (hg : g.pending = true) (he : p.engine = g) : p.engine.pending = true := by rw [he, hg]
  unfold answerEffect at h
  split at h
  next he => cases h; exact .sent he
  next he => cases h; exact .error (pending (by rfl) he)
  next he =>
    obtain ⟨hdr, hd, hq⟩ := Option.map_eq_some_iff.mp h
    cases hq; exact .header he hd
  next he =>
    split at h <;> cases h
    next hb => exact .body he hb
  next he => cases h; exact .timeout (pending (by rfl) he)
  next he => cases h; exact .timeout (pending (by rfl) he)
  next he => cases h; exact .error (pending (by rfl) he)
  next he => cases h; exact .error (pending (by rfl) he)
  next => cases h  -- no other answer is enabled

/-- Settles O30, event by event: only the Link's answer touches the record of the bytes. -/
theorem bytesLeaveOnlyInSend : Obligations.BytesLeaveOnlyInSend := by
  intro e s t h
  cases e with
  | memWrite a v => exact .inl (hostWrite_linkOut h)
  | hostLine => exact .inl (hostTurn_linkOut h)
  | memRead | tick | reset => cases h; exact .inl rfl
  | link ans =>
    rw [takeEvent_link] at h
    cases hr : answerEffect ans s.spe with
    | none => rw [hr] at h; cases h
    | some r =>
      obtain ⟨q, bs⟩ := r
      rw [hr] at h
      cases h
      cases answerEffect_step hr with
      | sent he => exact .inr ⟨rfl, he, rfl, rfl⟩
      | header | body | timeout | error => exact .inl (List.append_nil _)

/-! ### Who changes OUT (R53) -/

section
variable (cfg : Config) (p : Spe)

@[simp] theorem startTransaction_out (f : List Byte) (exp : Byte) : (startTransaction f exp p).out = p.out := by
  unfold startTransaction
  split <;> rfl

@[simp] theorem startListen_out (exp : Byte) : (startListen exp p).out = p.out := by
  unfold startListen
  split <;> rfl

@[simp] theorem startOf_out (op : BitVec 4) : (startOf cfg op p).out = p.out := by
  rcases opcode_cases op with rfl | rfl | rfl | rfl | rfl | ⟨hres, -⟩
  case inr.inr.inr.inl => exact startListen_out p _
  case inr.inr.inr.inr.inr => rw [startOf_reserved hres]; rfl
  all_goals exact startTransaction_out p _ _

@[simp] theorem issue_out (op : BitVec 4) : (issue op (startOf cfg op) p).out = p.out := by
  by_cases hidle : p.engine = .idle
  · rw [issue_idle hidle, startOf_out, accept_out]
  · rw [issue_busy hidle]

@[simp] theorem writeCsr_out (c : Csr) (v : Word) : (writeCsr c v p).out = p.out := by
  obtain ⟨-, -, -, -, -, -, hout⟩ := writeCsr_results c v p
  exact hout

@[simp] theorem foreign_out : (foreign p).out = p.out := by
  rcases foreign_cases p with ⟨-, -, e⟩ | ⟨-, e⟩ <;> rw [e]
  rfl

@[simp] theorem judgeStatus_out (w : Word) : (judgeStatus w p).out = p.out := by
  rcases judgeStatus_cases w p with ⟨-, e⟩ | ⟨-, -, e⟩ | ⟨-, -, -, e⟩ | ⟨-, -, -, e⟩ <;> rw [e] <;> rfl

@[simp] theorem tick_out : (tick cfg p).out = p.out := by
  rcases tick_cases cfg p with ⟨-, e⟩ | ⟨-, -, e⟩ | ⟨-, -, -, e⟩ | ⟨-, -, -, e⟩ <;> rw [e]
  exact startTransaction_out _ _ _

end

theorem AccessStep.out {p q : Spe} (h : AccessStep p q) : q.out = p.out := by
  rcases h with rfl | ⟨c, v, rfl⟩
  · rfl
  · exact writeCsr_out p c v

/-- OUT is as it was, or a READ_BUF or READ_STREAM has succeeded. -/
def OutKeptOrRead (p q : Spe) : Prop :=
  q.out = p.out ∨
  ((p.lOp = 3 ∨ p.lOp = 4) ∧ q.engine = .idle ∧ q.done = true ∧ q.errCode = .noError)

theorem finish_outKeptOrRead (r : List Byte) (p : Spe) : OutKeptOrRead p (finish r p) := by
  rcases finish_cases r p with ⟨k, -, e⟩ | ⟨-, v, -, e⟩ | ⟨h3, e⟩ | ⟨h4, e⟩ | ⟨-, w, -, e⟩ <;> rw [e]
  · exact .inl rfl
  · exact .inl rfl
  · exact .inr ⟨.inl h3, rfl, rfl, rfl⟩
  · exact .inr ⟨.inr h4, rfl, rfl, rfl⟩
  · exact .inl (judgeStatus_out _ w)

theorem bodyReceived_outKeptOrRead (b : List Byte) (p : Spe) : OutKeptOrRead p (bodyReceived b p) := by
  rcases bodyReceived_cases b p with ⟨-, e⟩ | ⟨r, -, ⟨-, e⟩ | ⟨-, e⟩⟩ <;> rw [e]
  · exact .inl rfl
  · exact finish_outKeptOrRead r { p with rxbuf := r }
  · exact .inl (foreign_out _)

/-- Settles O54, by what each event does: all but a body and a reset keep OUT. -/
theorem outChangesOnlyOnSuccess : Obligations.OutChangesOnlyOnSuccess := by
  intro e s t h hchange
  have hstep := takeEvent_eventStep h
  generalize t.spe = q at *
  cases hstep with
  | command _ op => exact absurd (issue_out s.cfg s.spe op) hchange
  | write _ ha => exact absurd ha.out hchange
  | read => exact absurd rfl hchange
  | line ha => exact absurd ha.out hchange
  | link heff =>
    cases answerEffect_step heff with
    | body he => exact .inr ⟨he, (bodyReceived_outKeptOrRead _ s.spe).resolve_left hchange⟩
    | sent | header | timeout | error => exact absurd rfl hchange
  | tick => exact absurd (tick_out s.cfg s.spe) hchange
  | reset => exact .inl rfl

/-! ### The results after the end (R50) -/

/-- The registers that ERR, the result CSRs and the PAYLOAD window are read from agree. -/
structure Spe.SameResults (p q : Spe) : Prop where
  errCode : q.errCode = p.errCode
  tmoSrc : q.tmoSrc = p.tmoSrc
  result : q.result = p.result
  plen : q.plen = p.plen
  discardCnt : q.discardCnt = p.discardCnt
  pollCnt : q.pollCnt = p.pollCnt
  elapsed : q.elapsed = p.elapsed
  lastHdr : q.lastHdr = p.lastHdr
  out : q.out = p.out

theorem Spe.SameResults.refl (p : Spe) : p.SameResults p := by constructor <;> rfl

/-- Equal result registers read as equal words (R22, R24, R25). -/
theorem Spe.SameResults.csrRead_eq {p q : Spe} (h : p.SameResults q) {c : Csr}
    (hc : c = .err ∨ c = .result ∨ c = .plen ∨ c = .discardCnt ∨ c = .pollCnt ∨ c = .elapsed ∨ c = .lastHdr ∨
      ∃ k, c = .payload k) : csrRead q c = csrRead p c := by
  rcases hc with rfl | rfl | rfl | rfl | rfl | rfl | rfl | ⟨k, rfl⟩
  · simp only [csrRead, errWord, h.errCode, h.tmoSrc]
  · exact h.result
  · exact congrArg (BitVec.setWidth 32) h.plen
  · exact h.discardCnt
  · exact h.pollCnt
  · exact h.elapsed
  · exact h.lastHdr
  · simp only [csrRead, payloadWord, payloadByte, h.plen, h.out]

/-- A CSR write starts no command (R127). -/
theorem writeCsr_engine_of_idle {p : Spe} (hidle : p.engine = .idle) (c : Csr) (v : Word) :
    (writeCsr c v p).engine = .idle := by
  cases c with
  | ctrl =>
    rw [writeCsr]
    rcases writeCtrl_cases v p with ⟨-, -, -, e⟩ | ⟨-, e⟩ <;> rw [e]
    · rfl
    · exact hidle
  | _ => exact hidle

/-- From IDLE an access other than a command keeps IDLE and the results (R50). -/
theorem AccessStep.idle_sameResults {p q : Spe} (h : AccessStep p q) (hidle : p.engine = .idle) :
    q.engine = .idle ∧ p.SameResults q := by
  rcases h with rfl | ⟨c, v, rfl⟩
  · exact ⟨hidle, .refl _⟩
  · obtain ⟨hcode, hsrc⟩ := (writeCsr_errKeptOrEnded c v p).resolve_right fun ⟨hrun, _⟩ => hrun hidle
    obtain ⟨hresult, hplen, hdiscard, hpoll, helapsed, hhdr, hout⟩ := writeCsr_results c v p
    exact ⟨writeCsr_engine_of_idle hidle c v,
      ⟨hcode, hsrc, hresult, hplen, hdiscard, hpoll, helapsed, hhdr, hout⟩⟩

/-- In IDLE no answer of the Link is enabled (R74). -/
theorem answerEffect_of_idle {p : Spe} (hidle : p.engine = .idle) (ans : LinkAnswer) : answerEffect ans p = none := by
  simp only [answerEffect, hidle]

/-- A tick in IDLE does nothing (R101). -/
theorem tick_of_idle {p : Spe} (hidle : p.engine = .idle) (cfg : Config) : tick cfg p = p := by
  simp [tick, hidle]

/-- Settles O56: in IDLE neither the Link nor the timer acts, and an access that issues no command keeps the
results. -/
theorem resultsStayAfterTheEnd : Obligations.ResultsStayAfterTheEnd := by
  intro e s t hidle h hreset hline hcmd
  have hkept : t.spe.engine = .idle ∧ s.spe.SameResults t.spe := by
    have hstep := takeEvent_eventStep h
    generalize t.spe = q at hstep ⊢
    cases hstep with
    | command hissue op =>
      rcases hissue with ⟨a, v, he, ha⟩ | ⟨he, -⟩
      · exact absurd ha (hcmd a v he)
      · exact absurd he hline
    | write _ ha => exact ha.idle_sameResults hidle
    | read => exact ⟨hidle, .refl _⟩
    | line => exact absurd rfl hline
    | link heff => rw [answerEffect_of_idle hidle] at heff; cases heff
    | tick => rw [tick_of_idle hidle]; exact ⟨hidle, .refl _⟩
    | reset => exact absurd rfl hreset
  exact ⟨hkept.1, fun _ hc => hkept.2.csrRead_eq hc⟩

end Sys2Proof.Machine

/-! The family 30_encoding: decoder and encoder give each other back, and what the wire rows, the host lines and the
macros do. -/

namespace Sys2Proof.Machine

/-! ### Command words (R54, R55) -/

/-- The opcode of a command word put together from its ignored bits and its opcode (R54). -/
theorem commandWord_opcode (ign : BitVec 28) (op : BitVec 4) : (ign ++ op : Word).extractLsb' 0 4 = op :=
  BitVec.extractLsb'_append_eq_right

/-- The ignored bits of a command word put together from them and an opcode (R54). -/
theorem commandWord_ignored (ign : BitVec 28) (op : BitVec 4) : (ign ++ op : Word).extractLsb' 4 28 = ign :=
  BitVec.extractLsb'_append_eq_left

/-- The three fixed bits and the last one are the opcode, 0x6 or 0x7 (R55). -/
theorem commandWord_illegal67 (ign : BitVec 28) (lo : BitVec 1) :
    (ign ++ 0b011#3 ++ lo : Word) = ign ++ (0b011#3 ++ lo : BitVec 4) := BitVec.append_assoc

/-- The fixed bit and the last three are the opcode, 0x8 to 0xF (R55). -/
theorem commandWord_illegal8F (ign : BitVec 28) (lo : BitVec 3) :
    (ign ++ 0b1#1 ++ lo : Word) = ign ++ (0b1#1 ++ lo : BitVec 4) := BitVec.append_assoc

theorem decodeCmd_illegal67 (ign : BitVec 28) (lo : BitVec 1) :
    decodeCmd (ign ++ 0b011#3 ++ lo) = .illegal67 lo ign := by
  rw [commandWord_illegal67]
  rw [decodeCmd, extract_low1, extract_low3, commandWord_opcode, commandWord_ignored]
  rcases (by decide : ∀ b : BitVec 1, b = 0 ∨ b = 1) lo with rfl | rfl <;> rfl

theorem decodeCmd_illegal8F (ign : BitVec 28) (lo : BitVec 3) :
    decodeCmd (ign ++ 0b1#1 ++ lo) = .illegal8F lo ign := by
  rw [commandWord_illegal8F]
  rw [decodeCmd, extract_low1, extract_low3, commandWord_opcode, commandWord_ignored]
  rcases (by decide : ∀ b : BitVec 3, b = 0 ∨ b = 1 ∨ b = 2 ∨ b = 3 ∨ b = 4 ∨ b = 5 ∨ b = 6 ∨ b = 7) lo with
    rfl | rfl | rfl | rfl | rfl | rfl | rfl | rfl <;> rfl

/-- The instruction of a command word encodes as that word, which no operand restricts. -/
theorem encode_decodeCmd (w : Word) : encode (decodeCmd w) = .cmdWord w ∧ (decodeCmd w).wf = true := by
  have join {op : BitVec 4} (h : w.extractLsb' 0 4 = op) : Code.cmdWord (w.extractLsb' 4 28 ++ op) = .cmdWord w := by
    rw [← h, word_join]
  rcases decodeCmd_cases w with ⟨h, e⟩ | ⟨h, e⟩ | ⟨h, e⟩ | ⟨h, e⟩ | ⟨h, e⟩ | ⟨h, e⟩ | ⟨lo, h, e⟩ | ⟨lo, h, e⟩ <;>
    rw [e]
  iterate 6 exact ⟨join h, rfl⟩  -- the rows whose mask leaves no opcode bit open
  · exact ⟨by rw [encode, commandWord_illegal67]; exact join h, rfl⟩
  · exact ⟨by rw [encode, commandWord_illegal8F]; exact join h, rfl⟩

/-- Settles O5: `exec_decodeCmd` reads of the word only its opcode, which the mask keeps. -/
theorem commandWordHighBitsIgnored : Obligations.CommandWordHighBitsIgnored := by
  intro v s
  have hop : (v &&& 0xF).extractLsb' 0 4 = v.extractLsb' 0 4 := by
    rw [BitVec.extractLsb'_and]
    exact BitVec.and_allOnes
  rw [exec_decodeCmd, exec_decodeCmd, hop]

/-! ### Request frames (R62) -/

/-- The instruction of a request frame encodes as that frame, which no operand restricts. -/
theorem encode_of_decodeTx {f : List Byte} {i : Instr} (h : decodeTx f = .ok i) :
    encode i = .txFrame f ∧ i.wf = true := by
  unfold decodeTx at h
  split at h
  case h_7 => cases h  -- no row has a frame of this size
  all_goals
    obtain ⟨hl, rfl, rfl⟩ := checkRequest_ok h
    simp only [List.cons.injEq, and_true] at hl
    simp [hl, encode, Instr.wf, le32_u32le, le16_u16le]

/-! ### Response frames (R56, R63) -/

/-- The instruction of a received frame of type `type` (R58, R63). -/
def replyInstr (tag type : Byte) (p : List Byte) (term : Byte) : Except Reject Instr :=
  if type = tyWriteAck then .ok (.rspWriteAck tag p term)
  else if type = tyReadReply then .ok (.rspReadReply tag p term)
  else if type = tyBufReply then .ok (.rspBufReply tag p term)
  else if type = tyStreamPush then .ok (.rspStreamPush tag p term)
  else .error .unknownType

/-- A header that announces the payload's length is that of the payload's frame (R56). -/
theorem responseBytes_of_header {tag l0 l1 type : Byte} {p : List Byte} (h : (u16le l0 l1).toNat = p.length)
    (term : Byte) : responseBytes tag type p term = tag :: l0 :: l1 :: type :: (p ++ [term]) := by
  rw [responseBytes, ← h, BitVec.ofNat_toNat, BitVec.setWidth_eq, le16_u16le]
  simp

/-- Decoding a response frame cuts it into its fields again (R56). -/
theorem decodeRx_responseBytes {p : List Byte} (hp : payloadFits p = true) (tag type term : Byte) :
    decodeRx (responseBytes tag type p term) = replyInstr tag type p term := by
  have hlen : (u16le ((BitVec.ofNat 16 p.length).extractLsb' 0 8)
      ((BitVec.ofNat 16 p.length).extractLsb' 8 8)).toNat = p.length := by
    have : p.length ≤ 65535 := by simpa [payloadFits] using hp
    rw [u16le_of_le16, BitVec.toNat_ofNat, Nat.mod_eq_of_lt (by omega)]
  rw [responseBytes_of_header hlen, decodeRx, hlen]
  simp [replyInstr]

/-- The instruction of a response frame's type encodes as that frame, if its payload fits. -/
theorem encode_of_replyInstr {tag type term : Byte} {p : List Byte} {i : Instr}
    (h : replyInstr tag type p term = .ok i) :
    encode i = .rxFrame (responseBytes tag type p term) ∧ i.wf = payloadFits p := by
  unfold replyInstr at h
  split_ifs at h <;> cases h <;> subst type <;> exact ⟨rfl, rfl⟩

/-- A received frame that is an instruction has a whole header. -/
theorem header_of_decodeRx {bs : List Byte} {i : Instr} (h : decodeRx bs = .ok i) :
    ∃ tag l0 l1 type b, bs = tag :: l0 :: l1 :: type :: b := by
  unfold decodeRx at h
  split at h
  · exact ⟨_, _, _, _, _, rfl⟩
  · cases h

/-- The instruction of a received frame encodes as that frame, and its payload fits: a 16-bit length counted it. -/
theorem encode_of_decodeRx {bs : List Byte} {i : Instr} (h : decodeRx bs = .ok i) :
    encode i = .rxFrame bs ∧ i.wf = true := by
  obtain ⟨tag, l0, l1, type, b, rfl⟩ := header_of_decodeRx h
  obtain ⟨p, term, rfl, hlen, -⟩ := exec_of_decodeRx h
  have hp : payloadFits p = true := by
    have := (u16le l0 l1).isLt
    simp only [payloadFits, decide_eq_true_eq]
    omega
  rw [← responseBytes_of_header hlen] at h ⊢
  rw [decodeRx_responseBytes hp] at h
  exact hp ▸ encode_of_replyInstr h

/-! ### Macros (R67) -/

/-- Lines that pass the check are the whole expansion. -/
theorem checkLines_ok {ls want : List HostLine} {i j : Instr} (h : checkLines ls want i = .ok j) :
    ls = want ∧ i = j := by
  unfold checkLines at h
  split at h
  next hl => exact ⟨hl, Except.ok.inj h⟩
  next => cases h

theorem checkLines_self (ls : List HostLine) (i : Instr) : checkLines ls ls i = .ok i := if_pos rfl

/-- The macro of some lines encodes as these lines, which no operand restricts. -/
theorem encode_of_decodeLines {ls : List HostLine} {i : Instr} (h : decodeLines ls = .ok i) :
    encode i = .lines ls ∧ i.wf = true := by
  unfold decodeLines at h
  split at h
  case h_6 => cases h  -- no macro begins with these lines
  all_goals
    obtain ⟨hls, rfl⟩ := checkLines_ok h
    exact ⟨congrArg Code.lines hls.symm, rfl⟩

/-! ### Decoder and encoder -/

/-- Settles O3, by the kind of code. -/
theorem encodeOfDecode : Obligations.EncodeOfDecode := by
  intro c i h
  cases c with
  | cmdWord w =>
    obtain rfl : decodeCmd w = i := Except.ok.inj h
    exact encode_decodeCmd w
  | txFrame f => exact encode_of_decodeTx h
  | rxFrame bs => exact encode_of_decodeRx h
  | lines ls => exact encode_of_decodeLines h

/-- Settles O2, row by row: a command word is cut into its ignored bits and its opcode, a request frame's value
is put together from its bytes, a response frame is cut into its fields, and a macro's lines are its whole expansion. -/
theorem decodeOfEncode : Obligations.DecodeOfEncode := by
  intro i hwf hstart hdata
  cases i with
  | writeReg ign | readReg ign | readBuf ign | readStream ign | pollStatus ign | illegal0 ign =>
    simp only [encode, decode, decodeCmd, commandWord_opcode, commandWord_ignored]
    rfl
  | illegal67 lo ign => exact congrArg Except.ok (decodeCmd_illegal67 ign lo)
  | illegal8F lo ign => exact congrArg Except.ok (decodeCmd_illegal8F ign lo)
  | reqWrite a v => exact congrArg (Except.ok ∘ Instr.reqWrite a) (u32le_of_le32 v)
  | reqWriteAlt a v => exact congrArg (Except.ok ∘ Instr.reqWriteAlt a) (u32le_of_le32 v)
  | reqBuf o => exact congrArg (Except.ok ∘ Instr.reqBuf) (u16le_of_le16 o)
  | reqBufAlt o => exact congrArg (Except.ok ∘ Instr.reqBufAlt) (u16le_of_le16 o)
  | reqRead a | reqReadAlt a => rfl
  | rspWriteAck tag p term | rspReadReply tag p term | rspBufReply tag p term | rspStreamPush tag p term =>
    exact decodeRx_responseBytes hwf tag _ term
  | doWriteReg | doReadReg | doReadBuf | doPoll => exact checkLines_self _ _
  | waitDone => exact checkLines_self waitDoneLines .waitDone
  | waitStart => exact absurd rfl hstart
  | waitData t => exact absurd rfl (hdata t)

/-- Settles O1: the decoder evaluates each code. -/
theorem specWordsDecode : Obligations.SpecWordsDecode :=
  ⟨rfl, rfl, rfl, rfl, rfl, rfl, rfl, rfl, rfl, rfl, rfl, rfl⟩

/-- Settles O4: both macros are defined by the lines of that POLL. -/
theorem waitMacrosArePolls : Obligations.WaitMacrosArePolls := fun _ _ => ⟨rfl, rfl, rfl, rfl⟩

/-! ### Link steps (R78, R81) -/

/-- The pending frame leaves whole and a header is awaited (R78). -/
theorem writeFrame_of_pending {f : List Byte} {s : State} (he : s.spe.engine = .send)
    (hf : s.spe.pendingFrame = f) : writeFrame f s = .next { s with
      spe := { s.spe with engine := .rxHdr }, linkOut := s.linkOut ++ f } := by
  rw [writeFrame_pending he hf, requestWritten, hf]

/-- Settles O18: each request row is the writing of its frame, and an answer in SEND is `answerEffect`. -/
theorem requestFrameIsWritten : Obligations.RequestFrameIsWritten := by
  intro a v o s he
  have write {f : List Byte} := writeFrame_of_pending (f := f) he
  refine ⟨write, write, write, write, write, write, ?_, ?_⟩ <;> simp only [takeEvent_link, answerEffect, he]
  · rfl
  · exact afterAnswer_some_nil s _

/-- A well-terminated body of a frame that is not awaited is given to the discard rule (R80, R81). -/
theorem bodyReceived_foreign {p : List Byte} {q : Spe} (hlen : q.hdrLen.toNat = p.length)
    (htype : q.hdrType ≠ q.expType) : bodyReceived (p ++ [termByte]) q = foreign { q with rxbuf := p } := by
  rw [bodyReceived, decodeBody_good _ _ hlen]
  exact if_neg htype

theorem satInc_eq (w : Word) : satInc w = if w = 0xFFFFFFFF then 0xFFFFFFFF else w + 1 := by
  unfold satInc
  split
  next h => exact h
  next => rfl

/-- Settles O26: the four reply rows receive the frame in one way, and the discard rule gives the next SPE. -/
theorem foreignFrameIsDiscarded : Obligations.ForeignFrameIsDiscarded := by
  intro tag p s q he htag hlen htype hq
  have hforeign : foreign { s.spe with rxbuf := p } = q := by
    rw [hq, foreign, satInc_eq]
    rfl
  have receive {type : Byte} (h : s.spe.hdrType = type) :
      receiveFrame tag type p termByte s = .next { s with spe := q } := by
    rw [receiveFrame_pending he htag h hlen, bodyReceived_foreign hlen htype, hforeign]
  exact ⟨receive, receive, receive, receive⟩

/-! ### Host lines (R66, R67) -/

/-- Bit 0 of STATUS is BUSY (R21). -/
theorem statusWord_bit0 (p : Spe) : (statusWord p).getLsbD 0 = decide (p.engine ≠ .idle) := by
  unfold statusWord Spe.busy
  cases p.engine <;> cases p.done <;> cases p.ovr <;> rfl

/-- The loop on STATUS: one read, and the line again while BUSY reads 1 (R67). -/
theorem plainLine_waitNotBusy (s : State) : plainLine .waitNotBusy s = { s with
    hostReads := (some .status, statusWord s.spe) :: s.hostReads
    hostProg := (if s.spe.engine = .idle then [] else [.waitNotBusy]) ++ s.hostProg } := by
  simp only [plainLine, csrRead, statusWord_bit0]
  by_cases h : s.spe.engine = .idle <;> simp [h, State.csrReadTo, State.queue, csrRead]

/-- The wait for `irq`: nothing, or the line again while `irq` is 0 (R67). -/
theorem plainLine_waitIrq (s : State) : plainLine .waitIrq s = { s with
    hostProg := if s.spe.irq then s.hostProg else .waitIrq :: s.hostProg } := by
  rw [plainLine]
  split <;> rfl

/-- A host read at a CSR's offset is that of the CSR (R18, R34). -/
theorem memRead_csrOffset (c : Csr) (s : State) : s.memRead (csrOffset c) = s.csrReadTo c := by
  simp only [State.memRead, State.csrReadTo, memReadWord, csrAt_csrOffset]

/-- A line that neither writes a CSR nor names an instruction is taken off the program and has its effect (R66). -/
theorem hostTurn_plainLine {s : State} {l : HostLine} {ls : List HostLine} (hp : s.hostProg = l :: ls)
    (hcsrw : ∀ c v, l ≠ .csrw c v) (hrun : ∀ i, l ≠ .run i) :
    hostTurn s = .next (plainLine l { s with hostProg := ls }) := by
  cases l with
  | csrw c v => exact absurd rfl (hcsrw c v)
  | run i => exact absurd rfl (hrun i)
  | _ => simp only [hostTurn, hp]

/-- Settles O45, line by line. -/
theorem hostLinesAreAccesses : Obligations.HostLinesAreAccesses := by
  rintro s c v ls q rfl
  have plain {l : HostLine} (hp : s.hostProg = l :: ls) (hcsrw) (hrun) :
      takeEvent .hostLine s = _ := hostTurn_plainLine hp hcsrw hrun
  refine ⟨fun hp => ?_, fun hp => ?_, fun hp => ?_, fun hp => ?_, fun hp => ?_⟩
  · simp only [takeEvent, hostTurn, hp]
  · rw [plain hp nofun nofun, takeEvent, memRead_csrOffset, plainLine]
  · rw [plain hp nofun nofun, plainLine_waitNotBusy]
    by_cases h : s.spe.engine = .idle <;> simp [h]
  · rw [plain hp nofun nofun, plainLine_waitIrq]
    rfl
  · have hplen : (csrRead s.spe .plen).toNat = s.spe.plen.toNat := BitVec.toNat_setWidth_of_le (by decide)
    rw [plain hp nofun nofun, plainLine, hplen]
    rfl

/-- Settles O46, macro by macro: the first line is a write of an argument CSR, or WAIT_DONE's loop. -/
theorem macrosRunTheirExpansion : Obligations.MacrosRunTheirExpansion := by
  rintro a v s _ rfl
  have haddr : a.extractLsb' 0 8 = a.setWidth 8 := (BitVec.setWidth_eq_extractLsb' (by decide)).symm
  have hoffset : a.extractLsb' 0 16 = a.setWidth 16 := (BitVec.setWidth_eq_extractLsb' (by decide)).symm
  rw [haddr, hoffset]
  refine ⟨rfl, rfl, rfl, rfl, rfl, rfl, ?_⟩
  show Host.Outcome.next (plainLine .waitNotBusy _) = _
  simp only [plainLine_waitNotBusy, queue_hostProg, List.append_assoc]
  rfl

end Sys2Proof.Machine

/-! The family 40_framer: the frames of the framer, and their round trip through the parser. -/

namespace Sys2Proof.Machine

/-! ### The framer builds a frame of R56 (R69) -/

/-- A body has an encoding, its frame of R69, exactly if its length fits. -/
theorem encodeRequest_eq_some {cb : Bool} {type cmd : Byte} {body f : List Byte} :
    encodeRequest cb type cmd body = some f ↔ body.length ≤ 65534 ∧ requestBytes cb type cmd body = f := by
  simp [encodeRequest]

theorem encodeRequest_eq_none {cb : Bool} {type cmd : Byte} {body : List Byte} :
    encodeRequest cb type cmd body = none ↔ 65534 < body.length := by
  simp [encodeRequest]

/-- With a command byte the payload is that byte and the body (R60). -/
theorem requestBytes_true (type cmd : Byte) (body : List Byte) :
    requestBytes true type cmd body = responseBytes reqTag type (cmd :: body) termByte := by
  simp [requestBytes, responseBytes, Nat.add_comm]

/-- Without a command byte the payload is the body (R61). -/
theorem requestBytes_false (type cmd : Byte) (body : List Byte) :
    requestBytes false type cmd body = responseBytes reqTag type body termByte := rfl

/-! ### The parser on a frame of R56 (R70, R71) -/

/-- The first four bytes of a frame are its header. -/
theorem decodeHeader_responseBytes (tag type : Byte) (p : List Byte) (term : Byte) :
    decodeHeader ((responseBytes tag type p term).take 4) = some (tag, BitVec.ofNat 16 p.length, type) := by
  show decodeHeader [tag, _, _, type] = _
  rw [decodeHeader_four, u16le_of_le16]

/-- The bytes after the header of a well-terminated frame are the body of its payload, if the length field counts
the payload. -/
theorem decodeBody_responseBytes {p : List Byte} (hp : p.length ≤ 65535) (tag type : Byte) :
    decodeBody (BitVec.ofNat 16 p.length) ((responseBytes tag type p termByte).drop 4) = some p := by
  have hlen : (BitVec.ofNat 16 p.length).toNat = p.length := Nat.mod_eq_of_lt (by omega)
  exact decodeBody_good _ p hlen

/-! ### The round trip (R72) -/

/-- Settles O6: a request frame is a frame of R56 with tag 0xCC and terminator 0xCD, which the parser takes apart; a
body of at most 65534 bytes leaves room for the command byte in the 16-bit length. -/
theorem framerRoundTrip : Obligations.FramerRoundTrip := by
  intro type cmd body f
  refine ⟨fun hb => ?_, fun hb cb => encodeRequest_eq_none.mpr hb, fun hf => ?_, fun hf => ?_⟩
  · exact ⟨encodeRequest_eq_some.mpr ⟨hb, rfl⟩, encodeRequest_eq_some.mpr ⟨hb, rfl⟩⟩
  · obtain ⟨hb, rfl⟩ := encodeRequest_eq_some.mp hf
    have hp : (cmd :: body).length ≤ 65535 := Nat.succ_le_succ hb
    rw [requestBytes_true, Nat.add_comm, ← List.length_cons (a := cmd)]
    exact ⟨decodeHeader_responseBytes .., decodeBody_responseBytes hp ..⟩
  · obtain ⟨hb, rfl⟩ := encodeRequest_eq_some.mp hf
    rw [requestBytes_false]
    exact ⟨decodeHeader_responseBytes .., decodeBody_responseBytes (Nat.le_succ_of_le hb) ..⟩

end Sys2Proof.Machine

/-! The family 41_transaction_engine: which events are enabled, the header and the body step, the discard loop, and
CTRL. -/

namespace Sys2Proof.Machine

/-! ### Which events are enabled (R74) -/

/-- A Link answer is taken exactly if it has an effect on the SPE. -/
theorem takeEvent_link_enabled_iff (ans : LinkAnswer) (s : State) :
    (∃ t, takeEvent (.link ans) s = .next t) ↔ (answerEffect ans s.spe).isSome = true := by
  rw [takeEvent_link]
  cases answerEffect ans s.spe <;> simp [afterAnswer]

/-- A write is answered only in SEND (R78). -/
theorem answerEffect_write_isSome_iff {ans : LinkAnswer} (h : ans = .wrOk ∨ ans = .wrIoErr) (p : Spe) :
    (answerEffect ans p).isSome = true ↔ p.engine = .send := by
  rcases h with rfl | rfl <;> cases he : p.engine <;> simp [answerEffect, he]

/-- A read fails only while a header or a body is awaited (R79, R80). -/
theorem answerEffect_readFailure_isSome_iff {ans : LinkAnswer} (h : ans = .rdTimeout ∨ ans = .rdIoErr) (p : Spe) :
    (answerEffect ans p).isSome = true ↔ p.engine = .rxHdr ∨ p.engine = .rxBody := by
  rcases h with rfl | rfl <;> cases he : p.engine <;> simp [answerEffect, he]

/-- A read delivers the four bytes of a header or the announced bytes of a body (R79, R80). -/
theorem answerEffect_rdData_isSome_iff (b : List Byte) (p : Spe) :
    (answerEffect (.rdData b) p).isSome = true ↔
      (p.engine = .rxHdr ∧ b.length = 4) ∨ (p.engine = .rxBody ∧ b.length = p.hdrLen.toNat + 1) := by
  cases he : p.engine with
  | rxHdr => simp [answerEffect, he, decodeHeader_isSome]
  | rxBody => by_cases hb : b.length = p.hdrLen.toNat + 1 <;> simp [answerEffect, he, hb]
  | idle | send | sleep => simp [answerEffect, he]

/-- Settles O9, event by event: host accesses, the tick and the reset are always taken, and a Link answer is taken
where it has an effect. -/
theorem eventsEnabledAsInTheTable : Obligations.EventsEnabledAsInTheTable := by
  intro s
  refine ⟨fun a v => ?_, fun _ => ⟨_, rfl⟩, ⟨_, rfl⟩, ⟨_, rfl⟩, ?_, ?_, fun b => ?_, ?_, ?_⟩
  · obtain ⟨q, h⟩ := hostWrite_next a v s
    exact ⟨_, h⟩
  all_goals rw [takeEvent_link_enabled_iff]
  · exact answerEffect_write_isSome_iff (.inl rfl) s.spe
  · exact answerEffect_write_isSome_iff (.inr rfl) s.spe
  · exact answerEffect_rdData_isSome_iff b s.spe
  · exact answerEffect_readFailure_isSome_iff (.inl rfl) s.spe
  · exact answerEffect_readFailure_isSome_iff (.inr rfl) s.spe

/-! ### Wire frames that are not the one pending (log entries 2 and 6) -/

/-- An instruction that encodes as a request frame is the writing of that frame (R78). -/
theorem exec_of_encode_txFrame {i : Instr} {f : List Byte} (h : encode i = .txFrame f) (s : State) :
    exec i s = writeFrame f s := by
  cases i with
  | reqWrite | reqRead | reqBuf | reqWriteAlt | reqReadAlt | reqBufAlt => cases h; rfl
  | _ => cases h  -- the code of another row is no request frame

/-- Settles O10: the request rows are `writeFrame`, the reply rows `receiveFrame`, and each refuses a frame that is
not the one pending. -/
theorem wireRowsRefusedUnlessPending : Obligations.WireRowsRefusedUnlessPending := by
  intro s
  refine ⟨fun i f hi hf => ?_, fun tag type p term hf => ?_⟩
  · rw [exec_of_encode_txFrame hi]
    exact if_neg hf
  · have refused : receiveFrame tag type p term s = .refused .eventNotEnabled := if_neg hf
    refine ⟨?_, ?_, ?_, ?_⟩ <;> rintro rfl <;> exact refused

/-! ### The header step and the body step (R79, R80) -/

/-- Four bytes are a header whatever they are (R79). -/
theorem takeEvent_rdData_header {s : State} (he : s.spe.engine = .rxHdr) (tag l0 l1 type : Byte) :
    takeEvent (.link (.rdData [tag, l0, l1, type])) s =
      .next { s with spe := headerReceived tag (u16le l0 l1) type s.spe } := by
  simp [takeEvent_link, answerEffect, he]

/-- A payload of the announced length and one byte more are a body (R80). -/
theorem takeEvent_rdData_body {s : State} (he : s.spe.engine = .rxBody) {p : List Byte}
    (hlen : p.length = s.spe.hdrLen.toNat) (term : Byte) :
    takeEvent (.link (.rdData (p ++ [term]))) s = .next { s with spe := bodyReceived (p ++ [term]) s.spe } := by
  simp [takeEvent_link, answerEffect, he, hlen]

/-- A link timeout ends the command with TIMEOUT (R79, R80). -/
theorem takeEvent_rdTimeout {s : State} (he : s.spe.engine = .rxHdr ∨ s.spe.engine = .rxBody) :
    takeEvent (.link .rdTimeout) s = .next { s with spe := raiseTimeout false s.spe } := by
  rcases he with he | he <;> simp [takeEvent_link, answerEffect, he]

/-- A link I/O error ends the command with IO_ERROR (R79, R80). -/
theorem takeEvent_rdIoErr {s : State} (he : s.spe.engine = .rxHdr ∨ s.spe.engine = .rxBody) :
    takeEvent (.link .rdIoErr) s = .next { s with spe := endCmd .ioError s.spe } := by
  rcases he with he | he <;> simp [takeEvent_link, answerEffect, he]

/-- A well-terminated body of the awaited type is given to the finish rule (R80). -/
theorem bodyReceived_awaited {p : List Byte} {q : Spe} (hlen : q.hdrLen.toNat = p.length)
    (htype : q.hdrType = q.expType) : bodyReceived (p ++ [termByte]) q = finish p { q with rxbuf := p } := by
  rw [bodyReceived_of_some (decodeBody_good _ _ hlen), if_pos htype]

/-- Settles O19, answer by answer. -/
theorem headerStep : Obligations.HeaderStep := fun tag l0 l1 type _ he =>
  ⟨takeEvent_rdData_header he tag l0 l1 type, takeEvent_rdTimeout (.inl he), takeEvent_rdIoErr (.inl he)⟩

/-- Settles O20, answer by answer: the terminator decides whether the body is decoded, and the type which rule
gets it. -/
theorem bodyStep : Obligations.BodyStep := by
  intro p term s he hlen
  refine ⟨fun hterm => ?_, fun htype => ?_, fun htype => ?_, takeEvent_rdTimeout (.inr he),
    takeEvent_rdIoErr (.inr he)⟩ <;> rw [takeEvent_rdData_body he hlen]
  · rw [bodyReceived_of_none (decodeBody_bad _ _ _ hlen.symm hterm)]
    rfl
  · rw [bodyReceived_awaited hlen.symm htype]
  · rw [bodyReceived_foreign hlen.symm htype]

/-! ### The discard loop (R81 to R84) -/

/-- A run takes the event at the head of the inbox first. -/
theorem run_succ_of_inbox {s t : State} {e : Event} {rest : List Event} (hq : s.inbox = e :: rest)
    (he : takeEvent e { s with inbox := rest } = .next t) (k : Nat) : run (k + 1) s = run k t := by
  simp only [run, step_of_inbox hq, he]

/-- The 16-bit length field counts a payload that fits (R56). -/
theorem lengthField_toNat {p : List Byte} (hp : p.length ≤ 65535) : (BitVec.ofNat 16 p.length).toNat = p.length :=
  Nat.mod_eq_of_lt (Nat.lt_succ_of_le hp)

/-- A well-terminated frame takes two steps, its header and its body (R83). -/
theorem run_frameEvents {s : State} (he : s.spe.engine = .rxHdr) {tag type : Byte} {p : List Byte}
    {rest : List Event} (hp : p.length ≤ 65535) (hq : s.inbox = frameEvents tag type p termByte ++ rest) (k : Nat) :
    run (k + 2) s = run k { s with
      inbox := rest
      spe := bodyReceived (p ++ [termByte]) (headerReceived tag (BitVec.ofNat 16 p.length) type s.spe) } := by
  have hlen := (lengthField_toNat hp).symm
  have header := takeEvent_rdData_header (s := { s with inbox := .link (.rdData (p ++ [termByte])) :: rest }) he tag
    ((BitVec.ofNat 16 p.length).extractLsb' 0 8) ((BitVec.ofNat 16 p.length).extractLsb' 8 8) type
  rw [u16le_of_le16] at header
  rw [run_succ_of_inbox hq header, run_succ_of_inbox rfl (takeEvent_rdData_body rfl hlen termByte)]

/-- The SPE after a frame (tag, type, payload) that it has read to its end and discarded (R81). -/
def Spe.discard (p : Spe) (f : Byte × Byte × List Byte) : Spe :=
  { headerReceived f.1 (BitVec.ofNat 16 f.2.2.length) f.2.1 p with
    rxbuf := f.2.2, discardCnt := satInc p.discardCnt, engine := .rxHdr }

/-- The two answers by which the Link delivers the well-terminated frame (tag, type, payload) (R83). -/
abbrev delivery (f : Byte × Byte × List Byte) : List Event := frameEvents f.1 f.2.1 f.2.2 termByte

/-- Below the cap a foreign frame is counted and the next header is awaited (R81). -/
theorem foreign_below_cap {p : Spe} (h : p.lCap = 0 ∨ p.discardCnt < p.lCap) :
    foreign p = { p with discardCnt := satInc p.discardCnt, engine := .rxHdr } :=
  if_neg fun ⟨hne, hle⟩ => BitVec.not_le.mpr (h.resolve_left hne) hle

/-- A foreign frame below the cap is discarded in two steps (R81, R83). -/
theorem run_foreignFrame {s : State} (he : s.spe.engine = .rxHdr)
    (hcap : s.spe.lCap = 0 ∨ s.spe.discardCnt < s.spe.lCap) {f : Byte × Byte × List Byte} {rest : List Event}
    (hf : f.2.1 ≠ s.spe.expType ∧ f.2.2.length ≤ 65535) (hq : s.inbox = delivery f ++ rest) (k : Nat) :
    run (k + 2) s = run k { s with inbox := rest, spe := s.spe.discard f } := by
  obtain ⟨htype, hlen⟩ := hf
  rw [run_frameEvents he hlen hq, bodyReceived_foreign (lengthField_toNat hlen) htype,
    foreign_below_cap (by exact hcap)]
  rfl

/-- Foreign frames are discarded one after the other, two steps each, while the cap admits them (R82, R84). -/
theorem run_foreignFrames {fs : List (Byte × Byte × List Byte)} {s : State} {rest : List Event}
    (he : s.spe.engine = .rxHdr)
    (hcap : s.spe.lCap = 0 ∨ s.spe.discardCnt.toNat + fs.length ≤ s.spe.lCap.toNat)
    (hfs : ∀ f ∈ fs, f.2.1 ≠ s.spe.expType ∧ f.2.2.length ≤ 65535) (hq : s.inbox = fs.flatMap delivery ++ rest)
    (k : Nat) :
    run (k + 2 * fs.length) s = run k { s with inbox := rest, spe := fs.foldl Spe.discard s.spe } := by
  induction fs generalizing s with
  | nil =>
    obtain rfl : s.inbox = rest := hq
    rfl
  | cons f fs ih =>
    obtain ⟨hf, hfs⟩ := List.forall_mem_cons.mp hfs
    rw [List.flatMap_cons, List.append_assoc] at hq
    rw [List.length_cons] at hcap
    have hlt : s.spe.lCap = 0 ∨ s.spe.discardCnt < s.spe.lCap := hcap.imp_right fun hc => by
      rw [BitVec.lt_def]; omega
    have hcap' : s.spe.lCap = 0 ∨ (satInc s.spe.discardCnt).toNat + fs.length ≤ s.spe.lCap.toNat :=
      hcap.imp_right fun hc => by
        have := s.spe.lCap.isLt
        rw [satInc_of_lt (by omega)]; omega
    rw [List.length_cons, Nat.mul_succ, ← Nat.add_assoc, run_foreignFrame he hlt hf hq]
    exact ih (s := { s with inbox := _, spe := s.spe.discard f }) rfl hcap' hfs rfl

/-- Foreign frames leave their number in DISCARD_CNT, and traces in HDR_*, LAST_HDR and RXBUF; a header is awaited
again and no other register changes (R81). -/
theorem foldl_discard_eq (fs : List (Byte × Byte × List Byte)) {p : Spe} (he : p.engine = .rxHdr) :
    ∃ tag len type hdr buf, fs.foldl Spe.discard p = { p with
      hdrTag := tag, hdrLen := len, hdrType := type, lastHdr := hdr, rxbuf := buf
      discardCnt := satInc^[fs.length] p.discardCnt, engine := .rxHdr } := by
  induction fs generalizing p with
  | nil => exact ⟨_, _, _, _, _, by rw [← he]; rfl⟩
  | cons f fs ih =>
    obtain ⟨tag, len, type, hdr, buf, h⟩ := ih (p := p.discard f) rfl
    exact ⟨tag, len, type, hdr, buf, h⟩

/-- Counting from 0 gives the number counted, below saturation (R24). -/
theorem satInc_iterate_zero {n : Nat} (h : n < 2 ^ 32) : satInc^[n] 0 = BitVec.ofNat 32 n := by
  induction n with
  | zero => rfl
  | succ n ih =>
    have hn : (BitVec.ofNat 32 n).toNat = n := Nat.mod_eq_of_lt (by omega)
    rw [Function.iterate_succ_apply', ih (by omega)]
    apply BitVec.eq_of_toNat_eq
    rw [satInc_of_lt (by omega), hn, BitVec.toNat_ofNat, Nat.mod_eq_of_lt h]

/-- Settles O27: the foreign frames are discarded, and the awaited frame overwrites all that they left but their
number. -/
theorem foreignFramesThenMatch : Obligations.ForeignFramesThenMatch := by
  intro s fs tag p rest he hcnt hcap hmax hfs hp hq
  have hcap' : s.spe.lCap = 0 ∨ s.spe.discardCnt.toNat + fs.length ≤ s.spe.lCap.toNat := by
    simpa [hcnt] using hcap
  rw [List.append_assoc] at hq
  obtain ⟨tag', len, type, hdr, buf, hdisc⟩ := foldl_discard_eq fs he
  rw [Nat.mul_succ, Nat.add_comm, run_foreignFrames he hcap' hfs hq, hdisc, run_frameEvents rfl hp rfl,
    bodyReceived_awaited (lengthField_toNat hp) rfl, hcnt, satInc_iterate_zero hmax]
  rfl

/-! ### CTRL (R87) -/

/-- A link request is pending in SEND, RX_HDR and RX_BODY (R26). -/
theorem Engine.pending_iff {g : Engine} : g.pending = true ↔ g = .send ∨ g = .rxHdr ∨ g = .rxBody := by
  cases g <;> simp [Engine.pending]

/-- Settles O38: `writeCtrl_cases` at every address of CTRL. -/
theorem ctrlWrite : Obligations.CtrlWrite := by
  intro a v s ha
  rw [takeEvent_memWrite .ctrl (by decide) v s ha, writeCsr]
  rcases writeCtrl_cases v s.spe with ⟨hopen, hv, hp, e⟩ | ⟨hkept, e⟩ <;> rw [e]
  · rw [if_pos ⟨hopen, hv, Engine.pending_iff.mp hp⟩]
    rfl
  · rw [if_neg]
    rintro ⟨hopen, hv, hp⟩
    rw [hopen, hv, Engine.pending_iff.mpr hp] at hkept
    exact absurd hkept (by decide)

end Sys2Proof.Machine

/-! The family 42_register_access: how the four register-access commands start and finish, a whole READ_REG, and what
a failed access leaves. -/

namespace Sys2Proof.Machine

/-! ### Accepting a command (R75, R76, R77) -/

section
variable {s : State} {op : BitVec 4}

/-- A command issued while busy only sets OVR (R75). -/
theorem issueCommand_busy (hbusy : s.spe.engine ≠ .idle) (start : Spe → Spe) :
    issueCommand op start s = .next { s with spe := { s.spe with ovr := true } } := by
  rw [issueCommand, issue_busy hbusy]

/-- A command issued in IDLE is accepted (R75). -/
theorem issueCommand_idle (hidle : s.spe.engine = .idle) (start : Spe → Spe) :
    issueCommand op start s = .next { s with spe := start (accept op s.spe) } := by
  rw [issueCommand, issue_idle hidle]

/-- On a closed transport each of the five commands ends with IO_ERROR in the step that accepts it (R76, R77). -/
theorem issueCommand_closed (hidle : s.spe.engine = .idle) (hclosed : s.spe.linkEn = false)
    (hop : replyType op ≠ none) :
    issueCommand op (startOf s.cfg op) s = .next { s with spe := endCmd .ioError (accept op s.spe) } := by
  have hlink : (accept op s.spe).linkEn = false := hclosed
  rw [issueCommand_idle hidle]
  rcases startOf_cases s.cfg (accept op s.spe) with ⟨f, exp, -, -, e⟩ | ⟨-, e⟩ | ⟨hres, -⟩
  · rw [accept_lOp, startTransaction_closed hlink] at e
    rw [e]
    rfl
  · rw [accept_lOp, startListen_closed hlink] at e
    rw [e]
    rfl
  · exact absurd hres hop

/-- The three ways to issue one of the five commands: while busy, and in IDLE on an open and on a closed transport,
where `q` is what the start rule makes of the SPE on an open one (R75, R76, R77). -/
theorem issueCommand_starts {q : Spe} (hop : replyType op ≠ none)
    (hq : s.spe.linkEn = true → startOf s.cfg op (accept op s.spe) = q) :
    (s.spe.engine ≠ .idle →
      issueCommand op (startOf s.cfg op) s = .next { s with spe := { s.spe with ovr := true } }) ∧
    (s.spe.engine = .idle → s.spe.linkEn = true →
      issueCommand op (startOf s.cfg op) s = .next { s with spe := q }) ∧
    (s.spe.engine = .idle → s.spe.linkEn = false →
      issueCommand op (startOf s.cfg op) s = .next { s with spe := endCmd .ioError (accept op s.spe) }) := by
  refine ⟨fun hbusy => issueCommand_busy hbusy _, fun hidle hopen => ?_, fun hidle hclosed =>
    issueCommand_closed hidle hclosed hop⟩
  rw [issueCommand_idle hidle, hq hopen]

end

/-! ### The request frames (R62) -/

/-- A frame has five bytes around its body, and one more with a command byte (R60, R61). -/
theorem requestBytes_length (cb : Bool) (type cmd : Byte) (body : List Byte) :
    (requestBytes cb type cmd body).length = if cb then body.length + 6 else body.length + 5 := by
  cases cb <;> simp [requestBytes] <;> omega

/-- The length that TXLEN gets (R29, R76). -/
theorem txlen_requestBytes (cb : Bool) (type cmd : Byte) (body : List Byte) :
    BitVec.ofNat 4 (requestBytes cb type cmd body).length =
      if cb then BitVec.ofNat 4 (body.length + 6) else BitVec.ofNat 4 (body.length + 5) := by
  rw [requestBytes_length, apply_ite (BitVec.ofNat 4)]

theorem requestBytes_writeReg (cb : Bool) (a : Byte) (v : Word) :
    requestBytes cb tyWriteReq cbWrite ([a] ++ le32 v) =
      if cb then [0xCC, 0x06, 0x00, 0xF9, 0x05, a] ++ le32 v ++ [0xCD]
      else [0xCC, 0x05, 0x00, 0xF9, a] ++ le32 v ++ [0xCD] := by
  cases cb <;> simp [requestBytes, le16]

theorem requestBytes_readReg (cb : Bool) (a : Byte) :
    requestBytes cb tyReadReq cbRead [a] =
      if cb then [0xCC, 0x02, 0x00, 0xF8, 0x01, a, 0xCD] else [0xCC, 0x01, 0x00, 0xF8, a, 0xCD] := by
  cases cb <;> simp [requestBytes, le16]

theorem requestBytes_readBuf (cb : Bool) (o : BitVec 16) :
    requestBytes cb tyBufReq cbBuf ([bufSubId] ++ le16 o) =
      if cb then [0xCC, 0x04, 0x00, 0xFA, 0x03, 0xE8] ++ le16 o ++ [0xCD]
      else [0xCC, 0x03, 0x00, 0xFA, 0xE8] ++ le16 o ++ [0xCD] := by
  cases cb <;> simp [requestBytes, le16]

/-! ### The starts (R89, R91, R93, R95) -/

/-- Settles O11: the pending frame is the write request of R62. -/
theorem writeRegStarts : Obligations.WriteRegStarts := by
  intro ign s
  refine issueCommand_starts (op := 1) (by decide) fun hopen => ?_
  refine (startTransaction_open (p := accept 1 s.spe) hopen _ _).trans ?_
  rw [txlen_requestBytes, accept_lAddr, accept_lWdata, requestBytes_writeReg]
  rfl

/-- Settles O12: the pending frame is the read request of R62. -/
theorem readRegStarts : Obligations.ReadRegStarts := by
  intro ign s
  refine issueCommand_starts (op := 2) (by decide) fun hopen => ?_
  refine (startTransaction_open (p := accept 2 s.spe) hopen _ _).trans ?_
  rw [txlen_requestBytes, accept_lAddr, requestBytes_readReg]
  rfl

/-- Settles O13: the pending frame is the buffer-read request of R62. -/
theorem readBufStarts : Obligations.ReadBufStarts := by
  intro ign s
  refine issueCommand_starts (op := 3) (by decide) fun hopen => ?_
  refine (startTransaction_open (p := accept 3 s.spe) hopen _ _).trans ?_
  rw [txlen_requestBytes, accept_lOffset, requestBytes_readBuf]
  rfl

/-- Settles O14: no request is sent, so the start rule is the listening of R77. -/
theorem readStreamStarts : Obligations.ReadStreamStarts := by
  intro ign s
  exact issueCommand_starts (op := 4) (by decide) fun hopen => startListen_open (p := accept 4 s.spe) hopen _

/-! ### The finish rules (R90, R92, R94) -/

theorem echoes_iff {a : Byte} {r : List Byte} : echoes a r = true ↔ r.head? = some a := by
  simp [echoes]

/-- A payload of at least 5 bytes has a register value, its bytes 1 to 4 (R63). -/
theorem replyValue_eq (r : List Byte) :
    replyValue r = if 5 ≤ r.length then some (u32le (r.getD 1 0) (r.getD 2 0) (r.getD 3 0) (r.getD 4 0)) else none :=
  match r with
  | [] | [_] | [_, _] | [_, _, _] | [_, _, _, _] => rfl
  | _ :: _ :: _ :: _ :: _ :: _ => by simp [replyValue]

theorem finishWriteReg_eq (r : List Byte) (p : Spe) :
    finishWriteReg r p = endCmd (if r.head? = some p.lAddr then .noError else .protocolMismatch) p := by
  simp only [finishWriteReg, echoes_iff]
  split <;> rfl

theorem finishReadReg_eq (r : List Byte) (p : Spe) :
    finishReadReg r p = if r.head? = some p.lAddr ∧ 5 ≤ r.length then
      endCmd .noError { p with result := u32le (r.getD 1 0) (r.getD 2 0) (r.getD 3 0) (r.getD 4 0) }
    else endCmd .protocolMismatch p := by
  simp only [finishReadReg, echoes_iff, replyValue_eq]
  by_cases hecho : r.head? = some p.lAddr
  · by_cases hlen : 5 ≤ r.length <;> simp [hecho, hlen]
  · simp [hecho]

theorem finishReadBuf_eq (r : List Byte) (p : Spe) :
    finishReadBuf r p = if r.head? = some bufSubId then
      endCmd .noError { p with out := r.tail, plen := BitVec.ofNat 16 (r.length - 1) }
    else endCmd .protocolMismatch p := by
  simp only [finishReadBuf, echoes_iff, List.drop_one]

/-- The awaited reply is given to the finish rule (R80). -/
theorem receiveFrame_awaited {s : State} {tag type : Byte} {p : List Byte} (he : s.spe.engine = .rxBody)
    (htag : s.spe.hdrTag = tag) (htype : s.spe.hdrType = type) (hlen : s.spe.hdrLen.toNat = p.length)
    (hexp : s.spe.expType = type) :
    receiveFrame tag type p termByte s = .next { s with spe := finish p { s.spe with rxbuf := p } } := by
  rw [receiveFrame_pending he htag htype hlen, bodyReceived_awaited hlen (htype.trans hexp.symm)]

/-- Settles O21: the row is the arrival of the awaited reply. -/
theorem writeAckFinishesWriteReg : Obligations.WriteAckFinishesWriteReg := by
  intro tag p s he htag htype hlen hop hexp
  refine (receiveFrame_awaited he htag htype hlen hexp).trans ?_
  rw [finish_writeReg (by exact hop), finishWriteReg_eq]
  rfl

/-- Settles O22: the row is the arrival of the awaited reply. -/
theorem readReplyFinishesReadReg : Obligations.ReadReplyFinishesReadReg := by
  intro tag p s he htag htype hlen hop hexp
  refine (receiveFrame_awaited he htag htype hlen hexp).trans ?_
  rw [finish_readReg (by exact hop), finishReadReg_eq]
  rfl

/-- Settles O23: the row is the arrival of the awaited reply. -/
theorem bufReplyFinishesReadBuf : Obligations.BufReplyFinishesReadBuf := by
  intro tag p s he htag htype hlen hop hexp
  refine (receiveFrame_awaited he htag htype hlen hexp).trans ?_
  rw [finish_readBuf (by exact hop), finishReadBuf_eq]
  rfl

/-- Settles O24: the row is the arrival of the awaited reply, whose header counts the payload. -/
theorem streamPushFinishesReadStream : Obligations.StreamPushFinishesReadStream := by
  intro tag p s he htag htype hlen hop hexp
  have hplen : BitVec.ofNat 16 p.length = s.spe.hdrLen := by rw [← hlen, BitVec.ofNat_toNat, BitVec.setWidth_eq]
  refine (receiveFrame_awaited he htag htype hlen hexp).trans ?_
  rw [finish_readStream (by exact hop), finishReadStream, hplen]
  rfl

/-! ### A whole READ_REG (R91, R92) -/

/-- The reply that echoes the address and carries `le32(v)` gives `v` (R64, R92). -/
theorem finishReadReg_reply {p : Spe} {a : Byte} (ha : p.lAddr = a) (v : Word) :
    finishReadReg ([a] ++ le32 v) p = endCmd .noError { p with result := v } := by
  rw [finishReadReg_eq, if_pos ⟨congrArg some ha.symm, Nat.le_refl 5⟩]
  exact congrArg (fun w => endCmd .noError { p with result := w }) (u32le_of_le32 v)

/-- TXLEN counts a request of at most 12 bytes, so the pending frame is the whole buffer (R26, R29). -/
theorem pendingFrame_eq_txbuf {p : Spe} (hfits : p.txbuf.length ≤ 12)
    (hlen : p.txlen = BitVec.ofNat 4 p.txbuf.length) : p.pendingFrame = p.txbuf := by
  rw [Spe.pendingFrame, hlen, BitVec.toNat_ofNat, List.take_of_length_le (by omega)]

/-- `WR_OK` takes the pending frame, whichever row it is (R78). -/
theorem takeEvent_wrOk_of_send {s : State} (he : s.spe.engine = .send) :
    takeEvent (.link .wrOk) s = .next (requestWritten s) := by
  simp only [takeEvent, linkAnswer, he, answerSend_wrOk he]

/-- On an open transport a command that sends a request has its frame pending and awaits its reply type (R76). -/
theorem issueCommand_request {s : State} {op : BitVec 4} {f : List Byte} {exp : Byte}
    (hidle : s.spe.engine = .idle) (hopen : s.spe.linkEn = true)
    (hstart : startOf s.cfg op (accept op s.spe) = startTransaction f exp (accept op s.spe)) :
    issueCommand op (startOf s.cfg op) s = .next { s with spe := { accept op s.spe with
      txbuf := f, txlen := BitVec.ofNat 4 f.length, expType := exp, engine := .send } } := by
  rw [issueCommand_idle hidle, hstart, startTransaction_open (by exact hopen)]
  rfl

/-- A command that sends a request is accepted in one step, and in the next the Link takes its frame (R75, R78). -/
theorem run_request {s : State} {a w : Word} {op : BitVec 4} {rest : List Event} {f : List Byte} {exp : Byte}
    (hidle : s.spe.engine = .idle) (hopen : s.spe.linkEn = true) (ha : csrAt a = some .cmd)
    (hw : w.extractLsb' 0 4 = op) (hq : s.inbox = .memWrite a w :: .link .wrOk :: rest)
    (hreq : requestOf s.cfg (accept op s.spe) = some f)
    (hstart : startOf s.cfg op (accept op s.spe) = startTransaction f exp (accept op s.spe)) (k : Nat) :
    run (k + 2) s = run k { s with
      inbox := rest
      spe := { accept op s.spe with
        txbuf := f, txlen := BitVec.ofNat 4 f.length, expType := exp, engine := .rxHdr }
      linkOut := s.linkOut ++ f } := by
  subst hw
  have hfits := requestOf_length_le hreq
  have hissue := issueCommand_request (s := { s with inbox := .link .wrOk :: rest }) hidle hopen hstart
  rw [← exec_decodeCmd, ← hostWrite_of_csrAt_cmd ha] at hissue
  rw [run_succ_of_inbox hq hissue, run_succ_of_inbox rfl (takeEvent_wrOk_of_send rfl), requestWritten,
    pendingFrame_eq_txbuf hfits rfl]

/-- Settles O29: the request is sent, and the reply echoes the latched address. -/
theorem readRegReturnsTheValue : Obligations.ReadRegReturnsTheValue := by
  intro s v tag rest hidle hopen hq
  rw [run_request (op := 2) hidle hopen (by rfl) (by rfl) hq rfl rfl,
    run_frameEvents rfl (p := [s.spe.addr] ++ le32 v) (by simp) rfl, bodyReceived_awaited rfl rfl,
    finish_readReg rfl, finishReadReg_reply (by rfl), requestBytes_readReg, accept_lAddr]
  exact ⟨_, rfl, rfl, rfl, rfl, rfl, rfl, rfl⟩

/-! ### What a failed access leaves (R98) -/

/-- RESULT and PLEN are as they were, or no error is reported. -/
def ResultKeptOrNoError (p q : Spe) : Prop := (q.result = p.result ∧ q.plen = p.plen) ∨ q.errCode = .noError

theorem finish_resultKeptOrNoError {p : Spe} (hop : p.lOp ≠ 5) (r : List Byte) :
    ResultKeptOrNoError p (finish r p) := by
  rcases finish_cases r p with ⟨k, -, e⟩ | ⟨-, v, -, e⟩ | ⟨-, e⟩ | ⟨-, e⟩ | ⟨h5, -⟩
  · rw [e]; exact .inl ⟨rfl, rfl⟩
  · rw [e]; exact .inr rfl
  · rw [e]; exact .inr rfl
  · rw [e]; exact .inr rfl
  · exact absurd h5 hop

theorem bodyReceived_resultKeptOrNoError {p : Spe} (hop : p.lOp ≠ 5) (b : List Byte) :
    ResultKeptOrNoError p (bodyReceived b p) := by
  rcases bodyReceived_cases b p with ⟨-, e⟩ | ⟨r, -, ⟨-, e⟩ | ⟨-, e⟩⟩ <;> rw [e]
  · exact .inl ⟨rfl, rfl⟩
  · exact finish_resultKeptOrNoError (p := { p with rxbuf := r }) hop r
  · rcases foreign_cases { p with rxbuf := r } with ⟨-, -, e⟩ | ⟨-, e⟩ <;> rw [e] <;> exact .inl ⟨rfl, rfl⟩

/-- Only POLL_STATUS counts ticks (R101). -/
theorem tick_of_not_poll {p : Spe} (hop : p.lOp ≠ 5) (cfg : Config) : tick cfg p = p :=
  if_neg fun ⟨_, h5⟩ => hop h5

/-- While a register access runs, no event writes RESULT or PLEN and reports an error. -/
theorem SpeStep.resultKeptOrNoError {cfg : Config} {p q : Spe} (h : SpeStep cfg p q) (hrun : p.engine ≠ .idle)
    (hop : p.lOp ≠ 5) : ResultKeptOrNoError p q := by
  cases h with
  | accepted hidle => exact absurd hidle hrun
  | written c _ v =>
    obtain ⟨hresult, hplen, -⟩ := writeCsr_results c v p
    exact .inl ⟨hresult, hplen⟩
  | body _ b => exact bodyReceived_resultKeptOrNoError hop b
  | ticked => rw [tick_of_not_poll hop]; exact .inl ⟨rfl, rfl⟩
  | reset => exact .inr rfl
  | same | overrun | sent | header | linkTimeout | linkError => exact .inl ⟨rfl, rfl⟩

/-- Settles O55: RESULT and PLEN are 0 while the command runs, and an end with an error keeps them. -/
theorem failedAccessLeavesNoResult : Obligations.FailedAccessLeavesNoResult := by
  intro e s t hinv hrun hop hstep _ herr
  obtain ⟨-, -, -, hresult, hplen⟩ := hinv.runningClean hrun
  obtain ⟨-, -, hspe⟩ := takeEvent_stepsTo hstep
  obtain ⟨hr, hp⟩ := (hspe.resultKeptOrNoError hrun hop).resolve_right herr
  exact ⟨hr.trans hresult, hp.trans hplen⟩

end Sys2Proof.Machine

/-! The family 43_status_poller: how POLL_STATUS starts, what a completed status read leads to, the tick and the
sleep, and the timeline of a poll. -/

namespace Sys2Proof.Machine

/-! ### The start (R99) -/

/-- Settles O15: the pending frame is the read request of address 0x06. -/
theorem pollStatusStarts : Obligations.PollStatusStarts := by
  intro ign s
  refine issueCommand_starts (op := 5) (by decide) fun hopen => ?_
  refine (startTransaction_open (p := accept 5 s.spe) hopen _ _).trans ?_
  rw [txlen_requestBytes, requestBytes_readReg]
  rfl

/-! ### A completed status read (R100, R103, R104) -/

/-- What a status snapshot leads to, the tests written out (R100, R104). -/
theorem judgeStatus_eq (w : Word) (p : Spe) :
    judgeStatus w p =
      if (p.elapsed.toNat : Int) > p.lMaxTime.toInt then raiseTimeout true p
      else if w &&& errorMask ≠ 0 then endCmd .moduleError { p with result := w }
      else if w &&& p.lWanted = p.lWanted then endCmd .noError p
      else { p with engine := .sleep, sleepCnt := pollInterval } := by
  simp only [judgeStatus, Spe.timedOut, hasErrorBit, meetsWanted, decide_eq_true_eq]

/-- A reply without the echo of address 0x06 or under 5 bytes is a mismatch; from any other the status is judged, and
the read is counted (R100). -/
theorem finishPollStatus_eq (r : List Byte) (p : Spe) :
    finishPollStatus r p = if ¬ (r.head? = some statusAddr ∧ 5 ≤ r.length) then endCmd .protocolMismatch p
    else judgeStatus (u32le (r.getD 1 0) (r.getD 2 0) (r.getD 3 0) (r.getD 4 0))
      { p with pollCnt := satInc p.pollCnt } := by
  simp only [finishPollStatus, echoes_iff, replyValue_eq]
  by_cases hecho : r.head? = some statusAddr
  · by_cases hlen : 5 ≤ r.length <;> simp [hecho, hlen]
  · rw [if_neg hecho, if_pos fun ⟨h, _⟩ => hecho h]

/-- Settles O25: the row is the arrival of the awaited reply, whose status is judged. -/
theorem readReplyFinishesPoll : Obligations.ReadReplyFinishesPoll := by
  rintro tag p s w n he htag htype hlen hop hexp rfl hn
  rw [← satInc_eq] at hn
  subst hn
  refine (receiveFrame_awaited he htag htype hlen hexp).trans ?_
  rw [finish_pollStatus (by exact hop), finishPollStatus_eq, judgeStatus_eq]
  rfl

/-- Settles O33: a negative limit is below every ELAPSED, no limit reaches the saturated one, and 0 does not exceed
0. -/
theorem maxTimeCorners : Obligations.MaxTimeCorners := by
  intro w p
  have timesOut (h : (p.elapsed.toNat : Int) > p.lMaxTime.toInt) : judgeStatus w p = raiseTimeout true p := by
    rw [judgeStatus_eq, if_pos h]
  refine ⟨fun hneg => timesOut (by omega), fun hmax => timesOut ?_, fun hlimit helapsed hcode => ?_⟩
  · have hlt := BitVec.toInt_lt (x := p.lMaxTime)
    rw [hmax, show (0xFFFFFFFF : Word).toNat = 2 ^ 32 - 1 from rfl]
    omega
  · have hin : p.timedOut = false := by rw [Spe.timedOut, hlimit, helapsed]; rfl
    rcases judgeStatus_cases w p with ⟨h, -⟩ | ⟨-, -, e⟩ | ⟨-, -, -, e⟩ | ⟨-, -, -, e⟩
    · rw [hin] at h; cases h
    all_goals rw [e] at hcode
    · cases hcode
    · cases hcode
    · exact hcode

/-! ### Wanted bits in 31:16 (R105) -/

/-- A status with all wanted bits and no error bit wants none of the error bits (R105). -/
theorem wanted_and_errorMask {w wanted : Word} (herr : hasErrorBit w = false) (hmeets : meetsWanted w wanted = true) :
    wanted &&& errorMask = 0 := by
  have herr : w &&& errorMask = 0 := not_not.mp (of_decide_eq_false herr)
  have hmeets : w &&& wanted = wanted := of_decide_eq_true hmeets
  rw [← hmeets, BitVec.and_assoc, BitVec.and_comm wanted, ← BitVec.and_assoc, herr]
  exact BitVec.zero_and

/-- The command has ended, and without an error (R113). -/
def Spe.EndedWithoutError (p : Spe) : Prop := p.done = true ∧ p.errCode = .noError

theorem not_endedWithoutError_of_done {p : Spe} (h : p.done = false) : ¬ p.EndedWithoutError :=
  fun ⟨hdone, _⟩ => by rw [h] at hdone; cases hdone

theorem not_endedWithoutError_endCmd {k : ErrKind} (hk : k ≠ .noError) (p : Spe) : ¬ (endCmd k p).EndedWithoutError :=
  fun ⟨_, hcode⟩ => hk hcode

section
variable {p : Spe} (hdone : p.done = false)
include hdone

theorem writeCsr_not_endedWithoutError (c : Csr) (v : Word) : ¬ (writeCsr c v p).EndedWithoutError := by
  cases c with
  | ctrl =>
    rw [writeCsr]
    rcases writeCtrl_cases v p with ⟨-, -, -, e⟩ | ⟨-, e⟩ <;> rw [e]
    · exact not_endedWithoutError_endCmd (by decide) _
    · exact not_endedWithoutError_of_done hdone
  | status => exact not_endedWithoutError_of_done (by rw [writeCsr, writeStatus, hdone]; rfl)
  | _ => exact not_endedWithoutError_of_done hdone

theorem startTransaction_not_endedWithoutError (f : List Byte) (exp : Byte) :
    ¬ (startTransaction f exp p).EndedWithoutError := by
  cases hl : p.linkEn with
  | true => rw [startTransaction_open hl]; exact not_endedWithoutError_of_done hdone
  | false => rw [startTransaction_closed hl]; exact not_endedWithoutError_endCmd (by decide) _

theorem tick_not_endedWithoutError (cfg : Config) : ¬ (tick cfg p).EndedWithoutError := by
  rcases tick_cases cfg p with ⟨-, e⟩ | ⟨-, -, e⟩ | ⟨-, -, -, e⟩ | ⟨-, -, -, e⟩ <;> rw [e]
  case inr.inr.inr => exact startTransaction_not_endedWithoutError (by exact hdone) _ _
  all_goals exact not_endedWithoutError_of_done hdone

theorem foreign_not_endedWithoutError : ¬ (foreign p).EndedWithoutError := by
  rcases foreign_cases p with ⟨-, -, e⟩ | ⟨-, e⟩ <;> rw [e]
  · exact not_endedWithoutError_endCmd (by decide) _
  · exact not_endedWithoutError_of_done hdone

/-- No status satisfies a wanted bit in 31:16 (R105). -/
theorem judgeStatus_not_endedWithoutError (hwanted : p.lWanted &&& errorMask ≠ 0) (w : Word) :
    ¬ (judgeStatus w p).EndedWithoutError := by
  rcases judgeStatus_cases w p with ⟨-, e⟩ | ⟨-, -, e⟩ | ⟨-, herr, hmeets, -⟩ | ⟨-, -, -, e⟩
  · rw [e]; exact not_endedWithoutError_endCmd (by decide) _
  · rw [e]; exact not_endedWithoutError_endCmd (by decide) _
  · exact absurd (wanted_and_errorMask herr hmeets) hwanted
  · rw [e]; exact not_endedWithoutError_of_done hdone

theorem finishPollStatus_not_endedWithoutError (hwanted : p.lWanted &&& errorMask ≠ 0) (r : List Byte) :
    ¬ (finishPollStatus r p).EndedWithoutError := by
  rw [finishPollStatus_eq]
  split
  · exact not_endedWithoutError_endCmd (by decide) _
  · exact judgeStatus_not_endedWithoutError (by exact hdone) (by exact hwanted) _

theorem bodyReceived_not_endedWithoutError (hop : p.lOp = 5) (hwanted : p.lWanted &&& errorMask ≠ 0)
    (b : List Byte) : ¬ (bodyReceived b p).EndedWithoutError := by
  rcases bodyReceived_cases b p with ⟨-, e⟩ | ⟨r, -, ⟨-, e⟩ | ⟨-, e⟩⟩ <;> rw [e]
  · exact not_endedWithoutError_endCmd (by decide) _
  · rw [finish_pollStatus (by exact hop)]
    exact finishPollStatus_not_endedWithoutError (by exact hdone) (by exact hwanted) r
  · exact foreign_not_endedWithoutError (by exact hdone)

end

/-- Settles O34, by what each event does: only a judged status can end the poll without an error, and it would have to
have an error bit. -/
theorem wantedErrorBitIsNeverSatisfied : Obligations.WantedErrorBitIsNeverSatisfied := by
  intro e s t hrun hop hdone hwanted h
  obtain ⟨-, -, hspe⟩ := takeEvent_stepsTo h
  show ¬ t.spe.EndedWithoutError
  generalize t.spe = q at hspe ⊢
  cases hspe with
  | same | overrun | sent | header => exact not_endedWithoutError_of_done hdone
  | accepted hidle => exact absurd hidle hrun
  | written c _ v => exact writeCsr_not_endedWithoutError hdone c v
  | body _ b => exact bodyReceived_not_endedWithoutError hdone hop hwanted b
  | linkTimeout | linkError => exact not_endedWithoutError_endCmd (by decide) _
  | ticked => exact tick_not_endedWithoutError hdone s.cfg
  | reset => exact not_endedWithoutError_of_done rfl

/-! ### The status wait's timeout (R102) -/

section
variable (p : Spe)

@[simp] theorem startTransaction_tmoSrc (f : List Byte) (exp : Byte) :
    (startTransaction f exp p).tmoSrc = p.tmoSrc := by
  unfold startTransaction
  split <;> rfl

@[simp] theorem tick_tmoSrc (cfg : Config) : (tick cfg p).tmoSrc = p.tmoSrc := by
  rcases tick_cases cfg p with ⟨-, e⟩ | ⟨-, -, e⟩ | ⟨-, -, -, e⟩ | ⟨-, -, -, e⟩ <;> rw [e]
  exact startTransaction_tmoSrc _ _ _

@[simp] theorem writeCsr_tmoSrc (c : Csr) (v : Word) : (writeCsr c v p).tmoSrc = p.tmoSrc := by
  cases c with
  | ctrl =>
    rw [writeCsr]
    rcases writeCtrl_cases v p with ⟨-, -, -, e⟩ | ⟨-, e⟩ <;> rw [e]
    rfl
  | _ => rfl

@[simp] theorem foreign_tmoSrc : (foreign p).tmoSrc = p.tmoSrc := by
  rcases foreign_cases p with ⟨-, -, e⟩ | ⟨-, e⟩ <;> rw [e]
  rfl

/-- A command word clears TMO_SRC or leaves it (R75). -/
theorem issue_tmoSrc (cfg : Config) (op : BitVec 4) :
    (issue op (startOf cfg op) p).tmoSrc = false ∨ (issue op (startOf cfg op) p).tmoSrc = p.tmoSrc := by
  by_cases hidle : p.engine = .idle
  · exact .inl (startOf_accept_err cfg op (issue_idle hidle ..)).1
  · exact .inr (by rw [issue_busy hidle])

end

theorem AccessStep.tmoSrc {p q : Spe} (h : AccessStep p q) : q.tmoSrc = p.tmoSrc := by
  rcases h with rfl | ⟨c, v, rfl⟩
  · rfl
  · exact writeCsr_tmoSrc p c v

/-- Beyond the limit, the SPE `q` is what the status wait's timeout makes of the poll `p`, its read counted (R100). -/
def StatusWaitTimesOut (p q : Spe) : Prop :=
  p.lOp = 5 ∧ p.timedOut = true ∧ q.pollCnt = satInc p.pollCnt ∧ q.errCode = .timeout

theorem judgeStatus_tmoSrc (w : Word) (p : Spe) :
    (judgeStatus w p).tmoSrc = p.tmoSrc ∨ (p.timedOut = true ∧ judgeStatus w p = raiseTimeout true p) := by
  rcases judgeStatus_cases w p with h | ⟨-, -, e⟩ | ⟨-, -, -, e⟩ | ⟨-, -, -, e⟩
  · exact .inr h
  all_goals rw [e]; exact .inl rfl

theorem finish_tmoSrc (r : List Byte) (p : Spe) :
    (finish r p).tmoSrc = p.tmoSrc ∨ StatusWaitTimesOut p (finish r p) := by
  rcases finish_cases r p with ⟨k, -, e⟩ | ⟨-, v, -, e⟩ | ⟨-, e⟩ | ⟨-, e⟩ | ⟨h5, w, -, e⟩ <;> rw [e]
  case inr.inr.inr.inr =>
    refine (judgeStatus_tmoSrc w _).imp_right fun ⟨hlate, e⟩ => ?_
    rw [e]
    exact ⟨h5, hlate, rfl, rfl⟩
  all_goals exact .inl rfl

theorem bodyReceived_tmoSrc (b : List Byte) (p : Spe) :
    (bodyReceived b p).tmoSrc = p.tmoSrc ∨ StatusWaitTimesOut p (bodyReceived b p) := by
  rcases bodyReceived_cases b p with ⟨-, e⟩ | ⟨r, -, ⟨-, e⟩ | ⟨-, e⟩⟩ <;> rw [e]
  · exact .inl rfl
  · exact finish_tmoSrc r { p with rxbuf := r }
  · exact .inl (foreign_tmoSrc _)

/-- Settles O35, by what each event does: all but a body clear TMO_SRC or leave it. -/
theorem statusTimeoutOnlyAtACompletedRead : Obligations.StatusTimeoutOnlyAtACompletedRead := by
  intro e s t h hbefore hafter
  have hstep := takeEvent_eventStep h
  generalize t.spe = q at *
  have notKept (hkept : q.tmoSrc = s.spe.tmoSrc) : False := by
    rw [hafter, hbefore] at hkept; cases hkept
  have notCleared (hclear : q.tmoSrc = false) : False := notKept (hclear.trans hbefore.symm)
  cases hstep with
  | command _ op => exact ((issue_tmoSrc s.spe s.cfg op).elim notCleared notKept).elim
  | write _ ha => exact (notKept ha.tmoSrc).elim
  | read => exact (notKept rfl).elim
  | line ha => exact (notKept ha.tmoSrc).elim
  | link heff =>
    cases answerEffect_step heff with
    | body he =>
      obtain ⟨hop, hlate, hcnt, hcode⟩ := (bodyReceived_tmoSrc _ s.spe).resolve_left notKept
      exact ⟨he, hop, ⟨_, rfl⟩, hcnt, hcode, of_decide_eq_true hlate⟩
    | timeout => exact (notCleared rfl).elim
    | sent | header | error => exact (notKept rfl).elim
  | tick => exact (notKept (tick_tmoSrc s.spe s.cfg)).elim
  | reset => exact (notCleared rfl).elim

/-! ### The tick (R101) -/

/-- The next status read on an open transport: the read request of address 0x06 is pending (R62, R99). -/
theorem statusRead_open {p : Spe} (hopen : p.linkEn = true) (cfg : Config) :
    statusRead cfg p = { p with
      discardCnt := 0, expType := tyReadReply, engine := .send
      txbuf := if cfg.reqCmdByte then [0xCC, 0x02, 0x00, 0xF8, 0x01, 0x06, 0xCD]
        else [0xCC, 0x01, 0x00, 0xF8, 0x06, 0xCD]
      txlen := if cfg.reqCmdByte then 7 else 6 } := by
  rw [statusRead, startTransaction_open hopen, txlen_requestBytes, requestBytes_readReg]
  rfl

theorem statusRead_closed {p : Spe} (hclosed : p.linkEn = false) (cfg : Config) :
    statusRead cfg p = endCmd .ioError { p with discardCnt := 0 } := by
  rw [statusRead, startTransaction_closed hclosed]

/-- With a request pending the poll is not asleep (R26). -/
theorem ne_sleep_of_pending {g : Engine} (h : g.pending = true) : g ≠ .sleep := by
  rintro rfl; cases h

/-- Settles O31, by the cases of the tick: no running poll, a read in flight, a sleep that goes on, and the last tick
of a sleep. -/
theorem tickStep : Obligations.TickStep := by
  intro s n hn
  rw [← satInc_eq] at hn
  subst hn
  rw [takeEvent]
  refine congrArg (fun q => Host.Outcome.next { s with spe := q }) ?_
  rcases tick_cases s.cfg s.spe with ⟨hoff, e⟩ | ⟨h5, hpend, e⟩ | ⟨h5, hs, hmore, e⟩ | ⟨h5, hs, hlast, e⟩ <;> rw [e]
  · rw [if_pos fun ⟨hrun, h5⟩ => hoff.elim hrun fun hne => hne h5]
  · rw [if_neg (not_not.mpr ⟨ne_idle_of_pending hpend, h5⟩), if_pos (ne_sleep_of_pending hpend)]
  all_goals rw [if_neg (not_not.mpr ⟨by rw [hs]; decide, h5⟩), if_neg (not_not.mpr hs)]
  · rw [if_pos fun h1 => hmore (sub_eq_zero.mpr h1)]
  · rw [if_neg (not_not.mpr (sub_eq_zero.mp hlast)), hlast]
    by_cases hl : s.spe.linkEn = true
    · rw [if_pos hl, statusRead_open (by exact hl)]
    · rw [if_neg hl, statusRead_closed (by exact eq_false_of_ne_true hl)]
      rfl

/-! ### Many ticks (R101) -/

/-- Ticks are taken one after the other, each by the timer alone. -/
theorem run_ticks {s : State} {n : Nat} {rest : List Event} (hq : s.inbox = List.replicate n .tick ++ rest) (k : Nat) :
    run (k + n) s = run k { s with inbox := rest, spe := (tick s.cfg)^[n] s.spe } := by
  induction n generalizing s with
  | zero =>
    obtain rfl : s.inbox = rest := hq
    rfl
  | succ n ih =>
    rw [← Nat.add_assoc, run_succ_of_inbox (e := .tick) hq rfl, ih rfl]
    rfl

section
variable {p : Spe} (hop : p.lOp = 5)
include hop

/-- A tick while a status read is in flight is counted (R101). -/
theorem tick_inFlight (hpend : p.engine.pending = true) (cfg : Config) :
    tick cfg p = { p with elapsed := satInc p.elapsed } := by
  rw [tick, if_pos ⟨ne_idle_of_pending hpend, hop⟩, if_neg (ne_sleep_of_pending hpend)]

/-- A tick that is not the last of a sleep is counted, in ELAPSED and in SLEEP_CNT (R101). -/
theorem tick_asleep (hs : p.engine = .sleep) (hmore : p.sleepCnt ≠ 1) (cfg : Config) :
    tick cfg p = { p with elapsed := satInc p.elapsed, sleepCnt := p.sleepCnt - 1 } := by
  rw [tick, if_pos ⟨by rw [hs]; decide, hop⟩, if_pos hs, wakeIfDue,
    if_neg fun h0 => hmore (sub_eq_zero.mp h0)]

/-- The last tick of a sleep starts the next status read (R101). -/
theorem tick_wakes (hs : p.engine = .sleep) (hlast : p.sleepCnt = 1) (cfg : Config) :
    tick cfg p = statusRead cfg { p with elapsed := satInc p.elapsed, sleepCnt := 0 } := by
  rw [tick, if_pos ⟨by rw [hs]; decide, hop⟩, if_pos hs, wakeIfDue, hlast]
  rfl

theorem tick_iterate_inFlight (hpend : p.engine.pending = true) (cfg : Config) (n : Nat) :
    (tick cfg)^[n] p = { p with elapsed := satInc^[n] p.elapsed } := by
  induction n generalizing p with
  | zero => rfl
  | succ n ih =>
    rw [Function.iterate_succ_apply, tick_inFlight hop hpend, ih (by exact hop) (by exact hpend)]
    rfl

/-- Fewer ticks than SLEEP_CNT leave the poll asleep (R101). -/
theorem tick_iterate_asleep (hs : p.engine = .sleep) {n m : Nat} (hcnt : p.sleepCnt = BitVec.ofNat 8 (m + n))
    (hm : 0 < m) (hmax : m + n < 256) (cfg : Config) :
    (tick cfg)^[n] p = { p with elapsed := satInc^[n] p.elapsed, sleepCnt := BitVec.ofNat 8 m } := by
  induction n generalizing p with
  | zero => rw [show BitVec.ofNat 8 m = p.sleepCnt from hcnt.symm]; rfl
  | succ n ih =>
    have hmore : p.sleepCnt ≠ 1 := by rw [hcnt]; bv_omega
    have hdec : p.sleepCnt - 1 = BitVec.ofNat 8 (m + n) := by rw [hcnt]; bv_omega
    rw [Function.iterate_succ_apply, tick_asleep hop hs hmore, ih (by exact hop) (by exact hs) hdec (by omega)]
    rfl

/-- As many ticks as SLEEP_CNT, at least one, start the next status read (R101). -/
theorem tick_iterate_wakes (hs : p.engine = .sleep) {n : Nat} (hcnt : p.sleepCnt = BitVec.ofNat 8 (n + 1))
    (hmax : n + 1 < 256) (cfg : Config) :
    (tick cfg)^[n + 1] p = statusRead cfg { p with elapsed := satInc^[n + 1] p.elapsed, sleepCnt := 0 } := by
  rw [Nat.add_comm] at hcnt hmax
  rw [Function.iterate_succ_apply', tick_iterate_asleep hop hs hcnt Nat.one_pos hmax,
    tick_wakes (by exact hop) (by exact hs) rfl, Function.iterate_succ_apply']

end

/-- Settles O32: `tick_iterate_asleep` before the last tick, `tick_iterate_wakes` at it. -/
theorem sleepLastsHundredTicks : Obligations.SleepLastsHundredTicks := by
  intro s k hs hop hcnt hopen hq hk
  have hsplit : s.inbox = List.replicate k .tick ++ List.replicate (100 - k) .tick := by
    rw [List.replicate_append_replicate, hq, Nat.add_sub_cancel' hk]
  have hrun := run_ticks hsplit 0
  rw [Nat.zero_add] at hrun
  refine ⟨_, hrun, rfl, fun hlt => ?_, ?_⟩
  · rw [tick_iterate_asleep hop hs (m := 100 - k) (by rw [hcnt, Nat.sub_add_cancel hk]; rfl) (by omega) (by omega)]
    exact ⟨hs, rfl⟩
  · rintro rfl
    rw [tick_iterate_wakes (n := 99) hop hs hcnt (by decide), statusRead_open (by exact hopen)]
    exact ⟨rfl, rfl⟩

/-! ### The timeline of a poll (R108) -/

/-- Counting `n` ticks adds `n`, below saturation (R24). -/
theorem satInc_iterate_toNat {w : Word} {n : Nat} (h : w.toNat + n < 2 ^ 32) : (satInc^[n] w).toNat = w.toNat + n := by
  induction n with
  | zero => rfl
  | succ n ih =>
    have hn := ih (by omega)
    rw [Function.iterate_succ_apply', satInc_of_lt (by omega), hn, Nat.add_assoc]

/-- A poll in the engine state `g` with its operands as latched, `e` ticks and `n` completed reads counted. -/
structure Spe.Polling (wanted maxTime : Word) (g : Engine) (e n : Nat) (p : Spe) : Prop where
  engine : p.engine = g
  lOp : p.lOp = 5
  expType : p.expType = tyReadReply
  linkEn : p.linkEn = true
  lWanted : p.lWanted = wanted
  lMaxTime : p.lMaxTime = maxTime
  elapsed : p.elapsed.toNat = e
  pollCnt : p.pollCnt.toNat = n

/-- The SPE with `n` more ticks counted (R101). -/
def Spe.counted (n : Nat) (p : Spe) : Spe := { p with elapsed := satInc^[n] p.elapsed }

/-- The SPE when the request of the read `r` has been written (R78). -/
def Spe.requested (r : PollRead) (p : Spe) : Spe :=
  { p with elapsed := satInc^[r.inSend] p.elapsed, engine := .rxHdr }

/-- The SPE when the header of the read `r` has been received (R79). -/
def Spe.headed (r : PollRead) (p : Spe) : Spe :=
  { p with
    elapsed := satInc^[r.inHeader + r.inSend] p.elapsed, engine := .rxBody
    hdrTag := 0xCC, hdrLen := 5, hdrType := tyReadReply, lastHdr := headerWord 0xCC 5 tyReadReply }

/-- The SPE at the end of the read `r`, before its status is judged (R100). -/
def Spe.replied (r : PollRead) (p : Spe) : Spe :=
  { p with
    elapsed := satInc^[r.ticks] p.elapsed, engine := .rxBody
    hdrTag := 0xCC, hdrLen := 5, hdrType := tyReadReply, lastHdr := headerWord 0xCC 5 tyReadReply
    rxbuf := [statusAddr] ++ le32 r.status, pollCnt := satInc p.pollCnt }

/-- The header comes after the ticks in RX_HDR. -/
theorem headerReceived_requested (r : PollRead) (p : Spe) :
    headerReceived 0xCC 5 tyReadReply ((p.requested r).counted r.inHeader) = p.headed r := by
  simp only [headerReceived, Spe.counted, Spe.requested, Spe.headed, Function.iterate_add_apply]

/-- The reply comes after the ticks in RX_BODY, and then all ticks of the read are counted (R108). -/
theorem counted_headed (r : PollRead) (p : Spe) :
    { (p.headed r).counted r.inBody with
      rxbuf := [statusAddr] ++ le32 r.status, pollCnt := satInc p.pollCnt } = p.replied r := by
  have hticks : r.ticks = r.inBody + (r.inHeader + r.inSend) := by rw [PollRead.ticks]; omega
  simp only [Spe.counted, Spe.headed, Spe.replied, hticks, Function.iterate_add_apply]

/-- The reply with the echo of address 0x06 and `le32(w)` gives the status `w` (R64, R100). -/
theorem finishPollStatus_reply (w : Word) (p : Spe) :
    finishPollStatus ([statusAddr] ++ le32 w) p = judgeStatus w { p with pollCnt := satInc p.pollCnt } := by
  rw [finishPollStatus_eq, if_neg (not_not.mpr ⟨rfl, Nat.le_refl 5⟩)]
  exact congrArg (fun v => judgeStatus v { p with pollCnt := satInc p.pollCnt }) (u32le_of_le32 w)

/-- While a status read is in flight ticks are counted, and then the Link answers (R78 to R80, R101). -/
theorem run_ticks_answer {s t : State} (hpend : s.spe.engine.pending = true) (hop : s.spe.lOp = 5) {n : Nat}
    {ans : LinkAnswer} {rest : List Event} (hq : s.inbox = List.replicate n .tick ++ .link ans :: rest)
    (hans : takeEvent (.link ans) { s with inbox := rest, spe := s.spe.counted n } = .next t) (k : Nat) :
    run (k + (n + 1)) s = run k t := by
  rw [Nat.add_comm n, ← Nat.add_assoc, run_ticks hq, tick_iterate_inFlight hop hpend]
  exact run_succ_of_inbox rfl hans k

/-- The header of a reply to a status read announces 5 bytes (R63, R79). -/
theorem takeEvent_statusHeader {s : State} (he : s.spe.engine = .rxHdr) :
    takeEvent (.link (.rdData [0xCC, 0x05, 0x00, 0xF6])) s =
      .next { s with spe := headerReceived 0xCC 5 tyReadReply s.spe } := by
  have hlen : u16le 0x05 0x00 = 5 := by decide
  rw [takeEvent_rdData_header he, hlen]

/-- The reply that a poll awaits is judged (R80, R100). -/
theorem bodyReceived_statusReply {p : Spe} (hop : p.lOp = 5) (hexp : p.expType = tyReadReply) (hlen : p.hdrLen = 5)
    (htype : p.hdrType = tyReadReply) (w : Word) :
    bodyReceived ([statusAddr] ++ le32 w ++ [termByte]) p =
      judgeStatus w { p with rxbuf := [statusAddr] ++ le32 w, pollCnt := satInc p.pollCnt } := by
  rw [bodyReceived_awaited (by rw [hlen]; rfl) (htype.trans hexp.symm), finish_pollStatus (by exact hop),
    finishPollStatus_reply]

/-- The three answers of a status read, each after its ticks in flight. -/
theorem PollRead.events_append (r : PollRead) (rest : List Event) :
    r.events ++ rest =
      List.replicate r.inSend .tick ++ .link .wrOk ::
        (List.replicate r.inHeader .tick ++ .link (.rdData [0xCC, 0x05, 0x00, 0xF6]) ::
          (List.replicate r.inBody .tick ++ .link (.rdData ([statusAddr] ++ le32 r.status ++ [termByte])) ::
            rest)) := by
  simp [PollRead.events]

section
variable {s : State} {p : Spe} {r : PollRead} {rest : List Event}

/-- The ticks in SEND, and the Link takes the request (R78, R101). -/
theorem run_requested (he : s.spe.engine = .send) (hop : s.spe.lOp = 5)
    (hq : s.inbox = List.replicate r.inSend .tick ++ .link .wrOk :: rest) (k : Nat) :
    run (k + (r.inSend + 1)) s = run k { s with
      inbox := rest, spe := s.spe.requested r, linkOut := s.linkOut ++ s.spe.pendingFrame } :=
  run_ticks_answer (by rw [he]; rfl) hop hq (takeEvent_wrOk_of_send he) k

/-- The ticks in RX_HDR, and the header arrives (R79, R101). -/
theorem run_headed (hp : s.spe = p.requested r) (hop : p.lOp = 5)
    (hq : s.inbox = List.replicate r.inHeader .tick ++ .link (.rdData [0xCC, 0x05, 0x00, 0xF6]) :: rest) (k : Nat) :
    run (k + (r.inHeader + 1)) s = run k { s with inbox := rest, spe := p.headed r } := by
  have header := takeEvent_statusHeader
    (s := { s with inbox := rest, spe := (p.requested r).counted r.inHeader }) rfl
  rw [headerReceived_requested, ← hp] at header
  exact run_ticks_answer (by rw [hp]; rfl) (by rw [hp]; exact hop) hq header k

/-- The ticks in RX_BODY, and the reply arrives and its status is judged (R80, R100, R101). -/
theorem run_judged (hp : s.spe = p.headed r) (hop : p.lOp = 5) (hexp : p.expType = tyReadReply)
    (hq : s.inbox = List.replicate r.inBody .tick ++
      .link (.rdData ([statusAddr] ++ le32 r.status ++ [termByte])) :: rest) (k : Nat) :
    run (k + (r.inBody + 1)) s = run k { s with inbox := rest, spe := judgeStatus r.status (p.replied r) } := by
  have reply := takeEvent_rdData_body
    (s := { s with inbox := rest, spe := (p.headed r).counted r.inBody }) rfl (p := [statusAddr] ++ le32 r.status)
    rfl termByte
  rw [bodyReceived_statusReply (by exact hop) (by exact hexp) rfl rfl] at reply
  rw [← counted_headed]
  exact run_ticks_answer (by rw [hp]; rfl) (by rw [hp]; exact hop) hq (by rw [hp]; exact reply) k

/-- One status read, from its request to its reply, takes its events and ends with the judging of its status
(R100, R108). -/
theorem run_pollRead (he : s.spe.engine = .send) (hop : s.spe.lOp = 5) (hexp : s.spe.expType = tyReadReply)
    (hq : s.inbox = r.events ++ rest) (k : Nat) :
    run (k + r.events.length) s = run k { s with
      inbox := rest
      spe := judgeStatus r.status (s.spe.replied r)
      linkOut := s.linkOut ++ s.spe.pendingFrame } := by
  have hlen : k + r.events.length = k + (r.inBody + 1) + (r.inHeader + 1) + (r.inSend + 1) := by
    simp [PollRead.events]; omega
  rw [PollRead.events_append] at hq
  rw [hlen]
  refine (run_requested he hop hq _).trans ?_
  refine (run_headed (p := s.spe) rfl hop rfl _).trans ?_
  exact run_judged (p := s.spe) rfl hop hexp rfl k

end

section
variable {wanted maxTime : Word} {e n : Nat} {p : Spe}

/-- A completed read has counted its ticks and itself (R100, R101). -/
theorem Spe.Polling.replied (h : p.Polling wanted maxTime .send e n) {r : PollRead} (he : e + r.ticks < 2 ^ 32)
    (hn : n + 1 < 2 ^ 32) : (p.replied r).Polling wanted maxTime .rxBody (e + r.ticks) (n + 1) where
  engine := rfl
  lOp := h.lOp
  expType := h.expType
  linkEn := h.linkEn
  lWanted := h.lWanted
  lMaxTime := h.lMaxTime
  elapsed := by
    rw [← h.elapsed] at he ⊢
    exact satInc_iterate_toNat he
  pollCnt := by
    rw [← h.pollCnt] at hn ⊢
    exact satInc_of_lt (by omega)

/-- A status that neither reports an error nor meets the wanted bits. -/
def Unmet (wanted status : Word) : Prop := status &&& errorMask = 0 ∧ status &&& wanted ≠ wanted

/-- Beyond the limit every status is a timeout (R100, R104). -/
theorem Spe.Polling.judgeStatus_late {g : Engine} (h : p.Polling wanted maxTime g e n)
    (hlate : (e : Int) > maxTime.toInt) (w : Word) : judgeStatus w p = raiseTimeout true p := by
  rw [judgeStatus_eq, h.elapsed, h.lMaxTime, if_pos hlate]

/-- Within the limit an unmet status puts the poll to sleep for 100 ticks (R100). -/
theorem Spe.Polling.judgeStatus_inTime {g : Engine} (h : p.Polling wanted maxTime g e n)
    (hin : ¬ (e : Int) > maxTime.toInt) {w : Word} (hw : Unmet wanted w) :
    (judgeStatus w p).Polling wanted maxTime .sleep e n ∧ (judgeStatus w p).sleepCnt = pollInterval := by
  obtain ⟨herr, hunmet⟩ := hw
  rw [judgeStatus_eq, if_neg (by rwa [h.elapsed, h.lMaxTime]), if_neg (not_not.mpr herr),
    if_neg (by rwa [h.lWanted])]
  exact ⟨{ h with engine := rfl }, rfl⟩

/-- As many ticks as SLEEP_CNT end a sleep with the next read (R101). -/
theorem Spe.Polling.wakes (h : p.Polling wanted maxTime .sleep e n) {m : Nat}
    (hcnt : p.sleepCnt = BitVec.ofNat 8 (m + 1)) (hm : m + 1 < 256) (he : e + (m + 1) < 2 ^ 32) (cfg : Config) :
    ((tick cfg)^[m + 1] p).Polling wanted maxTime .send (e + (m + 1)) n := by
  rw [tick_iterate_wakes h.lOp h.engine hcnt hm, statusRead_open (by exact h.linkEn)]
  exact { h with
    engine := rfl
    expType := rfl
    elapsed := by
      rw [← h.elapsed] at he ⊢
      exact satInc_iterate_toNat he }

/-- The sleep of a poll takes 100 ticks, and then the next read is pending (R101, R108). -/
theorem run_pollSleep {s : State} {rest : List Event} (h : s.spe.Polling wanted maxTime .sleep e n)
    (hcnt : s.spe.sleepCnt = pollInterval) (he : e + 100 < 2 ^ 32)
    (hq : s.inbox = List.replicate 100 .tick ++ rest) :
    ∃ q : Spe, q.Polling wanted maxTime .send (e + 100) n ∧
      ∀ k, run (k + 100) s = run k { s with inbox := rest, spe := q } :=
  ⟨_, h.wakes (m := 99) hcnt (by decide) he s.cfg, fun k => run_ticks hq k⟩

end

/-! #### Lists of reads -/

/-- A read before the last is followed by its sleep. -/
theorem pollEvents_cons (r : PollRead) {rs : List PollRead} (h : rs ≠ []) :
    pollEvents (r :: rs) = r.events ++ List.replicate 100 .tick ++ pollEvents rs := by
  obtain ⟨r', rs, rfl⟩ := List.exists_cons_of_ne_nil h
  rfl

theorem pollTime_cons (r : PollRead) {rs : List PollRead} (h : rs ≠ []) :
    pollTime (r :: rs) = r.ticks + 100 + pollTime rs := by
  obtain ⟨r', rs, rfl⟩ := List.exists_cons_of_ne_nil h
  rfl

/-- The first read's ticks are part of the time. -/
theorem ticks_le_pollTime (r : PollRead) (rs : List PollRead) : r.ticks ≤ pollTime (r :: rs) := by
  cases rs with
  | nil => exact Nat.le_refl _
  | cons r' rs => rw [pollTime_cons r (by simp)]; omega

/-- Each read but the first is preceded by a sleep of 100 ticks. -/
theorem hundred_mul_length_le (rs : List PollRead) : 100 * rs.length ≤ pollTime rs + 100 := by
  induction rs with
  | nil => exact Nat.zero_le _
  | cons r rs ih =>
    by_cases hne : rs = []
    · rw [hne]; exact Nat.le_add_left ..
    · rw [pollTime_cons r hne, List.length_cons]; omega

/-- No read before the last exceeds `maxTime`, if `e` ticks were counted before the first (R108). -/
def InTimeBeforeLast (maxTime : Word) (e : Nat) (rs : List PollRead) : Prop :=
  rs.dropLast ≠ [] → ((e + pollTime rs.dropLast : Nat) : Int) ≤ maxTime.toInt

/-- If there is a next read, the first is in time and so are the later ones but the last. -/
theorem InTimeBeforeLast.cons {maxTime : Word} {e : Nat} {r : PollRead} {rs : List PollRead} (hne : rs ≠ [])
    (h : InTimeBeforeLast maxTime e (r :: rs)) :
    ¬ ((e + r.ticks : Nat) : Int) > maxTime.toInt ∧ InTimeBeforeLast maxTime (e + r.ticks + 100) rs := by
  rw [InTimeBeforeLast, List.dropLast_cons_of_ne_nil hne] at h
  have hlimit := h (List.cons_ne_nil _ _)
  have hfirst := ticks_le_pollTime r rs.dropLast
  refine ⟨by omega, fun hmore => ?_⟩
  rw [pollTime_cons r hmore] at hlimit
  omega

/-- What the last read of a poll leaves: a timeout if it exceeds the limit, and else a sleep (R100, R108). -/
def Spe.PollEnds (maxTime : Word) (e n : Nat) (p : Spe) : Prop :=
  p.elapsed.toNat = e ∧ p.pollCnt.toNat = n ∧
    if (e : Int) > maxTime.toInt then
      p.engine = .idle ∧ p.done = true ∧ p.errCode = .timeout ∧ p.tmoSrc = true
    else p.engine = .sleep ∧ p.sleepCnt = 100

theorem Spe.Polling.judgeStatus_pollEnds {wanted maxTime : Word} {g : Engine} {e n : Nat} {p : Spe}
    (h : p.Polling wanted maxTime g e n) {w : Word} (hw : Unmet wanted w) :
    (judgeStatus w p).PollEnds maxTime e n := by
  by_cases hlate : (e : Int) > maxTime.toInt
  · rw [h.judgeStatus_late hlate]
    exact ⟨h.elapsed, h.pollCnt, by rw [if_pos hlate]; exact ⟨rfl, rfl, rfl, rfl⟩⟩
  · obtain ⟨hasleep, hsleepCnt⟩ := h.judgeStatus_inTime hlate hw
    exact ⟨hasleep.elapsed, hasleep.pollCnt, by rw [if_neg hlate]; exact ⟨hasleep.engine, hsleepCnt⟩⟩

/-- Reads of unmet statuses, the first one pending with `e` ticks and `n` reads counted, all complete; those before
the last put the poll to sleep (R108). -/
theorem run_pollEvents {wanted maxTime : Word} {rs : List PollRead} {rest : List Event} (hne : rs ≠ [])
    (hunmet : ∀ r ∈ rs, Unmet wanted r.status) {s : State} {e n : Nat}
    (h : s.spe.Polling wanted maxTime .send e n) (he : e + pollTime rs < 2 ^ 32) (hn : n + rs.length < 2 ^ 32)
    (hin : InTimeBeforeLast maxTime e rs) (hq : s.inbox = pollEvents rs ++ rest) :
    ∃ t, run (pollEvents rs).length s = .next t ∧ t.inbox = rest ∧
      t.spe.PollEnds maxTime (e + pollTime rs) (n + rs.length) := by
  induction rs generalizing s e n with
  | nil => exact absurd rfl hne
  | cons r rs ih =>
    obtain ⟨hr, hrs⟩ := List.forall_mem_cons.mp hunmet
    have hfirst := ticks_le_pollTime r rs
    rw [List.length_cons] at hn
    have hreplied := h.replied (r := r) (by omega) (by omega)
    by_cases hlast : rs = []
    · subst hlast
      have hrun := run_pollRead h.engine h.lOp h.expType hq 0
      rw [Nat.zero_add] at hrun
      exact ⟨_, hrun, rfl, hreplied.judgeStatus_pollEnds hr⟩
    · obtain ⟨hfirstIn, hin⟩ := hin.cons hlast
      rw [pollTime_cons r hlast] at he
      rw [pollEvents_cons r hlast, List.append_assoc, List.append_assoc] at hq
      have hlen : (pollEvents (r :: rs)).length = (pollEvents rs).length + 100 + r.events.length := by
        rw [pollEvents_cons r hlast]; simp; omega
      obtain ⟨hasleep, hcnt⟩ := hreplied.judgeStatus_inTime hfirstIn hr
      obtain ⟨q, hnext, hsleep⟩ := run_pollSleep (s := { s with
        inbox := List.replicate 100 .tick ++ (pollEvents rs ++ rest)
        spe := judgeStatus r.status (s.spe.replied r)
        linkOut := s.linkOut ++ s.spe.pendingFrame }) hasleep hcnt (by omega) rfl
      rw [hlen, run_pollRead h.engine h.lOp h.expType hq, hsleep, pollTime_cons r hlast, List.length_cons,
        Nat.add_comm rs.length, ← Nat.add_assoc, ← Nat.add_assoc, ← Nat.add_assoc]
      exact ih hlast hrs hnext (by omega) (by omega) hin rfl

/-- Settles O36: `run_pollEvents` from no tick and no read. -/
theorem pollTimeline : Obligations.PollTimeline := by
  intro s rs rest he hop hexp hopen hunmet helapsed hcnt hne htime hin hq
  have hstart : s.spe.Polling s.spe.lWanted s.spe.lMaxTime .send 0 0 :=
    ⟨he, hop, hexp, hopen, rfl, rfl, by rw [helapsed]; rfl, by rw [hcnt]; rfl⟩
  have hreads := hundred_mul_length_le rs
  obtain ⟨t, hrun, hinbox, hend⟩ :=
    run_pollEvents hne hunmet hstart (by omega) (by omega) (by rwa [InTimeBeforeLast, Nat.zero_add]) hq
  rw [Nat.zero_add, Nat.zero_add] at hend
  exact ⟨t, hrun, hinbox, hend⟩

end Sys2Proof.Machine

/-! The family 60_exceptions: what ends in ILLEGAL_CMD, the interrupt, who sets and clears OVR, and how IDLE and SLEEP
are left. -/

namespace Sys2Proof.Machine

/-! ### The interrupt (R120) -/

theorem Spe.irq_iff (p : Spe) : p.irq = true ↔ p.irqEn = true ∧ p.done = true := Bool.and_eq_true_iff

theorem Spe.irq_of_not_done {p : Spe} (h : p.done = false) : p.irq = false := by
  rw [Spe.irq, h, Bool.and_false]

theorem Spe.irq_of_not_irqEn {p : Spe} (h : p.irqEn = false) : p.irq = false := by
  rw [Spe.irq, h, Bool.false_and]

/-- CTRL.IRQ_EN gets bit 1 of the word, whether or not the write closes the transport under a request (R19, R87). -/
@[simp] theorem writeCtrl_irqEn (v : Word) (p : Spe) : (writeCtrl v p).irqEn = v.getLsbD 1 := by
  rcases writeCtrl_cases v p with ⟨-, -, -, e⟩ | ⟨-, e⟩ <;> rw [e]
  rfl

/-- With no request pending, a write to CTRL sets its two bits only (R87). -/
theorem writeCtrl_of_not_pending {p : Spe} (h : p.engine.pending = false) (v : Word) :
    writeCtrl v p = { p with linkEn := v.getLsbD 0, irqEn := v.getLsbD 1 } := by
  rcases writeCtrl_cases v p with ⟨-, -, hp, -⟩ | ⟨-, e⟩
  · rw [h] at hp; cases hp
  · exact e

theorem pending_of_idle {p : Spe} (h : p.engine = .idle) : p.engine.pending = false := by rw [h]; rfl

/-- Settles O44: each way to clear `irq` clears IRQ_EN or DONE; a command that runs after its acceptance has not set
DONE again. -/
theorem interruptFollowsDone : Obligations.InterruptFollowsDone := by
  intro s
  refine ⟨s.spe.irq_iff, fun v t hv h => ?_, fun v t hv h => ?_, fun v t hidle h hrun => ?_, fun t h => ?_⟩
  · cases (takeEvent_memWrite .status (by decide) v s (by rfl)).symm.trans h
    exact Spe.irq_of_not_done (by simp [writeCsr, hv])
  · cases (takeEvent_memWrite .ctrl (by decide) v s (by rfl)).symm.trans h
    refine ⟨Spe.irq_of_not_irqEn ((writeCtrl_irqEn v s.spe).trans hv), fun hidle => ?_⟩
    rw [writeCsr, writeCtrl_of_not_pending (pending_of_idle hidle)]
  · rw [takeEvent, hostWrite_of_csrAt_cmd (by rfl), exec_decodeCmd_idle v hidle] at h
    cases h
    obtain ⟨-, ⟨-, -, hdone⟩ | ⟨hended, -⟩⟩ := startOf_accept_err (p := s.spe) s.cfg (v.extractLsb' 0 4) rfl
    · exact Spe.irq_of_not_done hdone
    · exact absurd hended hrun
  · cases h; rfl

/-! ### Who sets and who clears OVR (R118) -/

section
variable (p : Spe)

@[simp] theorem startTransaction_ovr (f : List Byte) (exp : Byte) : (startTransaction f exp p).ovr = p.ovr := by
  unfold startTransaction
  split <;> rfl

@[simp] theorem startListen_ovr (exp : Byte) : (startListen exp p).ovr = p.ovr := by
  unfold startListen
  split <;> rfl

@[simp] theorem startOf_ovr (cfg : Config) (op : BitVec 4) : (startOf cfg op p).ovr = p.ovr := by
  rcases opcode_cases op with rfl | rfl | rfl | rfl | rfl | ⟨hres, -⟩
  case inr.inr.inr.inl => exact startListen_ovr p _
  case inr.inr.inr.inr.inr => rw [startOf_reserved hres]; rfl
  all_goals exact startTransaction_ovr p _ _

@[simp] theorem foreign_ovr : (foreign p).ovr = p.ovr := by
  rcases foreign_cases p with ⟨-, -, e⟩ | ⟨-, e⟩ <;> rw [e]
  rfl

@[simp] theorem judgeStatus_ovr (w : Word) : (judgeStatus w p).ovr = p.ovr := by
  rcases judgeStatus_cases w p with ⟨-, e⟩ | ⟨-, -, e⟩ | ⟨-, -, -, e⟩ | ⟨-, -, -, e⟩ <;> rw [e] <;> rfl

@[simp] theorem finish_ovr (r : List Byte) : (finish r p).ovr = p.ovr := by
  rcases finish_cases r p with ⟨k, -, e⟩ | ⟨-, v, -, e⟩ | ⟨-, e⟩ | ⟨-, e⟩ | ⟨-, w, -, e⟩ <;> rw [e]
  case inr.inr.inr.inr => exact judgeStatus_ovr _ w
  all_goals rfl

@[simp] theorem bodyReceived_ovr (b : List Byte) : (bodyReceived b p).ovr = p.ovr := by
  rcases bodyReceived_cases b p with ⟨-, e⟩ | ⟨r, -, ⟨-, e⟩ | ⟨-, e⟩⟩ <;> rw [e]
  · rfl
  · exact finish_ovr _ r
  · exact foreign_ovr _

@[simp] theorem tick_ovr (cfg : Config) : (tick cfg p).ovr = p.ovr := by
  rcases tick_cases cfg p with ⟨-, e⟩ | ⟨-, -, e⟩ | ⟨-, -, -, e⟩ | ⟨-, -, -, e⟩ <;> rw [e]
  exact startTransaction_ovr _ _ _

/-- A CSR write changes OVR only where it writes a 1 to its bit of STATUS, which clears it (R21). -/
theorem writeCsr_ovr (c : Csr) (v : Word) :
    (writeCsr c v p).ovr = p.ovr ∨ (c = .status ∧ v.getLsbD 2 = true ∧ (writeCsr c v p).ovr = false) := by
  cases c with
  | ctrl =>
    rw [writeCsr]
    rcases writeCtrl_cases v p with ⟨-, -, -, e⟩ | ⟨-, e⟩ <;> rw [e] <;> exact .inl rfl
  | status =>
    rw [writeCsr, writeStatus_ovr]
    cases v.getLsbD 2 <;> simp
  | _ => exact .inl rfl

end

theorem AnswerStep.ovr {p q : Spe} {ans : LinkAnswer} {bs : List Byte} (h : AnswerStep p ans q bs) :
    q.ovr = p.ovr := by
  cases h with
  | body => exact bodyReceived_ovr p _
  | sent | header | timeout | error => rfl

theorem AccessStep.ovr {p q : Spe} (h : AccessStep p q) : q.ovr = p.ovr ∨ q.ovr = false := by
  rcases h with rfl | ⟨c, v, rfl⟩
  · exact .inl rfl
  · exact (writeCsr_ovr p c v).imp_right fun ⟨_, _, hclear⟩ => hclear

/-- OVR is set only by a CMD write while busy, which changes nothing else (R75, R118). -/
theorem overrun_of_ovr_set {e : Event} {s t : State} (h : takeEvent e s = .next t) (hbefore : s.spe.ovr = false)
    (hafter : t.spe.ovr = true) :
    s.spe.engine ≠ .idle ∧ t.spe = { s.spe with ovr := true } ∧ e.IssuesCommand s := by
  have hstep := takeEvent_eventStep h
  generalize t.spe = q at *
  have notCleared (hclear : q.ovr = false) : False := by rw [hafter] at hclear; cases hclear
  have notKept (hkept : q.ovr = s.spe.ovr) : False := notCleared (hkept.trans hbefore)
  cases hstep with
  | command hissue op =>
    by_cases hidle : s.spe.engine = .idle
    · exact (notKept (by rw [issue_idle hidle, startOf_ovr, accept_ovr])).elim
    · exact ⟨hidle, issue_busy hidle .., hissue⟩
  | write _ ha => exact (ha.ovr.elim notKept notCleared).elim
  | read => exact (notKept rfl).elim
  | line ha => exact (ha.ovr.elim notKept notCleared).elim
  | link heff => exact (notKept (answerEffect_step heff).ovr).elim
  | tick => exact (notKept (tick_ovr s.spe s.cfg)).elim
  | reset => exact (notCleared rfl).elim

/-- A command whose start rule keeps OVR does not clear it (R75). -/
theorem issueCommand_keeps_ovr {op : BitVec 4} {start : Spe → Spe} (hstart : ∀ p, (start p).ovr = p.ovr)
    {s t : State} (h : issueCommand op start s = .next t) (hovr : s.spe.ovr = true) : t.spe.ovr = true := by
  by_cases hidle : s.spe.engine = .idle
  · rw [issueCommand_idle hidle] at h
    cases h
    exact (hstart _).trans hovr
  · rw [issueCommand_busy hidle] at h
    cases h
    rfl

theorem writeFrame_keeps_ovr {f : List Byte} {s t : State} (h : writeFrame f s = .next t)
    (hovr : s.spe.ovr = true) : t.spe.ovr = true := by
  obtain ⟨-, -, rfl⟩ := writeFrame_next h
  exact hovr

theorem receiveFrame_keeps_ovr {tag type : Byte} {p : List Byte} {term : Byte} {s t : State}
    (h : receiveFrame tag type p term s = .next t) (hovr : s.spe.ovr = true) : t.spe.ovr = true := by
  obtain ⟨-, -, -, -, rfl⟩ := receiveFrame_next h
  exact (bodyReceived_ovr _ _).trans hovr

/-- A line that writes no CSR leaves the SPE as it is (R66, R67). -/
theorem plainLine_spe {l : HostLine} (hl : ∀ c v, l ≠ .csrw c v) (s : State) : (plainLine l s).spe = s.spe := by
  cases l with
  | csrw c v => exact absurd rfl (hl c v)
  | waitNotBusy => rw [plainLine_waitNotBusy]
  | waitIrq => rw [plainLine_waitIrq]
  | _ => rfl

/-- No instruction clears OVR: a macro's first line writes an argument CSR or none (R67, R118). -/
theorem exec_keeps_ovr {i : Instr} {s t : State} (h : exec i s = .next t) (hovr : s.spe.ovr = true) :
    t.spe.ovr = true := by
  cases i with
  | writeReg | readReg | readBuf | pollStatus =>
    exact issueCommand_keeps_ovr (fun p => startTransaction_ovr p _ _) h hovr
  | readStream => exact issueCommand_keeps_ovr (fun p => startListen_ovr p _) h hovr
  | illegal0 | illegal67 | illegal8F => exact issueCommand_keeps_ovr (endCmd_ovr _) h hovr
  | reqWrite | reqRead | reqBuf | reqWriteAlt | reqReadAlt | reqBufAlt => exact writeFrame_keeps_ovr h hovr
  | rspWriteAck | rspReadReply | rspBufReply | rspStreamPush => exact receiveFrame_keeps_ovr h hovr
  | doWriteReg | doReadReg | doReadBuf | doPoll | waitStart | waitData => cases h; exact hovr
  | waitDone => cases h; exact (congrArg Spe.ovr (plainLine_spe (l := .waitNotBusy) nofun _)).trans hovr

/-- A host write clears OVR only by a 1 in its bit of STATUS (R118). -/
theorem hostWrite_clears_ovr {a v : Word} {s t : State} (h : hostWrite a v s = .next t) (hbefore : s.spe.ovr = true)
    (hafter : t.spe.ovr = false) : csrAt a = some .status ∧ v.getLsbD 2 = true := by
  have notKept (hkept : t.spe.ovr = true) : False := by rw [hafter] at hkept; cases hkept
  unfold hostWrite at h
  split at h
  next => exact (notKept (exec_keeps_ovr h hbefore)).elim
  next c _ hc =>
    cases h
    rcases writeCsr_ovr s.spe c v with hkept | ⟨rfl, hv, -⟩
    · exact (notKept (hkept.trans hbefore)).elim
    · exact ⟨hc, hv⟩
  next => cases h; exact (notKept hbefore).elim

/-- A host line clears OVR only as a `csrw` of a 1 to its bit of STATUS (R66, R118). -/
theorem hostTurn_clears_ovr {s t : State} (h : hostTurn s = .next t) (hbefore : s.spe.ovr = true)
    (hafter : t.spe.ovr = false) : ∃ v ls, s.hostProg = .csrw .status v :: ls ∧ v.getLsbD 2 = true := by
  have notKept (hkept : t.spe.ovr = true) : False := by rw [hafter] at hkept; cases hkept
  unfold hostTurn at h
  split at h
  next => cases h
  next c v ls hp =>
    obtain ⟨hc, hv⟩ := hostWrite_clears_ovr h hbefore hafter
    obtain rfl : c = .status := Option.some.inj ((csrAt_csrOffset c).symm.trans hc)
    exact ⟨v, ls, hp, hv⟩
  next i ls _ =>
    split at h
    next => exact (notKept (exec_keeps_ovr h hbefore)).elim
    next => cases h
  next l ls hcsrw _ _ =>
    cases h
    exact (notKept ((congrArg Spe.ovr (plainLine_spe hcsrw _)).trans hbefore)).elim

/-- Settles O51: `overrun_of_ovr_set` for the setting; of the events only host writes, host lines and a reset can
clear OVR. -/
theorem overrunIsSticky : Obligations.OverrunIsSticky := by
  intro e s t h
  refine ⟨overrun_of_ovr_set h, fun hbefore hafter => ?_⟩
  have notKept (hkept : t.spe.ovr = s.spe.ovr) : False := by
    rw [hafter, hbefore] at hkept; cases hkept
  cases e with
  | memWrite a v => exact .inr (.inl ⟨a, v, rfl, hostWrite_clears_ovr h hbefore hafter⟩)
  | memRead a => cases h; exact (notKept rfl).elim
  | hostLine => exact .inr (.inr ⟨rfl, hostTurn_clears_ovr h hbefore hafter⟩)
  | link ans =>
    have hstep := takeEvent_eventStep h
    generalize t.spe = q at hstep notKept
    cases hstep with
    | command hissue => simp [Event.IssuesCommand] at hissue
    | link heff => exact (notKept (answerEffect_step heff).ovr).elim
  | tick => cases h; exact (notKept (tick_ovr s.spe s.cfg)).elim
  | reset => exact .inl rfl

/-! ### How SLEEP and IDLE are left (R127) -/

/-- With no request pending, an access that issues no command leaves STATE as it is (R87). -/
theorem AccessStep.engine_of_not_pending {p q : Spe} (h : AccessStep p q) (hp : p.engine.pending = false) :
    q.engine = p.engine := by
  rcases h with rfl | ⟨c, v, rfl⟩
  · rfl
  · cases c with
    | ctrl => rw [writeCsr, writeCtrl_of_not_pending hp]
    | _ => rfl

/-- With no request pending, no answer of the Link is enabled (R74). -/
theorem answerEffect_of_not_pending {p : Spe} (hp : p.engine.pending = false) (ans : LinkAnswer) :
    answerEffect ans p = none := by
  cases he : p.engine with
  | idle | sleep => simp only [answerEffect, he]
  | send | rxHdr | rxBody => rw [he] at hp; cases hp

/-- With no request pending, an event that is neither a tick nor a reset leaves STATE as it is, but for a command
accepted in IDLE (R74, R127). -/
theorem engine_kept_of_not_pending {e : Event} {s t : State} (h : takeEvent e s = .next t)
    (hp : s.spe.engine.pending = false) :
    t.spe.engine = s.spe.engine ∨ (s.spe.engine = .idle ∧ e.IssuesCommand s) ∨ e = .tick ∨ e = .reset := by
  have hstep := takeEvent_eventStep h
  generalize t.spe = q at hstep ⊢
  cases hstep with
  | command hissue op =>
    by_cases hidle : s.spe.engine = .idle
    · exact .inr (.inl ⟨hidle, hissue⟩)
    · exact .inl (by rw [issue_busy hidle])
  | write _ ha => exact .inl (ha.engine_of_not_pending hp)
  | read => exact .inl rfl
  | line ha => exact .inl (ha.engine_of_not_pending hp)
  | link heff => rw [answerEffect_of_not_pending hp] at heff; cases heff
  | tick => exact .inr (.inr (.inl rfl))
  | reset => exact .inr (.inr (.inr rfl))

/-- Settles O57: in both states no request is pending, and in IDLE a tick does nothing and a reset gives IDLE. -/
theorem sleepAndIdleAreLeftAsStated : Obligations.SleepAndIdleAreLeftAsStated := by
  intro e s t h
  refine ⟨fun hsleep hleft => ?_, fun hidle hleft => ?_⟩
  · rcases engine_kept_of_not_pending h (by rw [hsleep]; rfl) with hkept | ⟨hidle, -⟩ | hout
    · exact absurd (hkept.trans hsleep) hleft
    · rw [hsleep] at hidle; cases hidle
    · exact hout
  · rcases engine_kept_of_not_pending h (pending_of_idle hidle) with hkept | ⟨-, hissue⟩ | rfl | rfl
    · exact absurd (hkept.trans hidle) hleft
    · exact hissue
    · cases h
      exact absurd ((congrArg Spe.engine (tick_of_idle hidle s.cfg)).trans hidle) hleft
    · cases h; exact absurd rfl hleft

/-! ### The reserved opcodes (R112) -/

/-- The two ways to issue a reserved opcode: in IDLE it ends with ILLEGAL_CMD in the step that accepts it, and while
busy it only sets OVR (R75, R112). -/
theorem issueCommand_illegal (op : BitVec 4) (s : State) :
    (s.spe.engine = .idle → issueCommand op (endCmd .illegalCmd) s =
      .next { s with spe := endCmd .illegalCmd (accept op s.spe) }) ∧
    (s.spe.engine ≠ .idle → issueCommand op (endCmd .illegalCmd) s =
      .next { s with spe := { s.spe with ovr := true } }) :=
  ⟨fun hidle => issueCommand_idle hidle _, fun hbusy => issueCommand_busy hbusy _⟩

/-- Settles O16: each of the three rows issues its opcode with the start rule `endCmd .illegalCmd`. -/
theorem reservedOpcodesEndIllegal : Obligations.ReservedOpcodesEndIllegal := by
  intro lo1 lo3 ign s
  obtain ⟨accepts0, drops0⟩ := issueCommand_illegal 0 s
  obtain ⟨accepts67, drops67⟩ := issueCommand_illegal (0b011#3 ++ lo1) s
  obtain ⟨accepts8F, drops8F⟩ := issueCommand_illegal (0b1#1 ++ lo3) s
  exact ⟨rfl, accepts0, accepts67, accepts8F, fun hbusy => ⟨drops0 hbusy, drops67 hbusy, drops8F hbusy⟩⟩

end Sys2Proof.Machine

/-! The family 70_reset_and_hazards: the reset, a CMD write while busy, foreign frames without a cap, and the end of
every running command under fairness. -/

namespace Sys2Proof.Machine

/-! ### The reset (R128) -/

/-- After reset every CSR reads 0 (R18, R128). -/
theorem csrRead_reset (c : Csr) : csrRead Spe.reset c = 0 := by
  cases c with
  | payload k =>
    have hbyte (i : Nat) : payloadByte Spe.reset i = 0 := if_neg (Nat.not_lt_zero i)
    rw [csrRead, payloadWord, hbyte, hbyte, hbyte, hbyte]
    rfl
  | _ => rfl

/-- After reset every host read returns 0 (R34, R128). -/
theorem memReadWord_reset (a : Word) : memReadWord Spe.reset a = 0 := by
  unfold memReadWord
  split
  next c _ => exact csrRead_reset c
  next => rfl

/-- Settles O47: the reset event replaces the SPE by `Spe.reset`. -/
theorem resetClearsEverything : Obligations.ResetClearsEverything := fun _ =>
  ⟨_, rfl, rfl, memReadWord_reset, rfl, rfl, rfl, rfl, rfl, rfl, rfl, rfl, rfl, rfl, rfl, rfl, rfl, rfl, rfl, rfl⟩

/-- Settles O48. -/
theorem resetMeetsTheInvariant : Obligations.ResetMeetsTheInvariant := Spe.Inv.reset

/-! ### A CMD write while busy (R132) -/

/-- Settles O17: a write at any address of CMD runs its word's instruction, and each of them only sets OVR while busy. -/
theorem commandWhileBusyIsDropped : Obligations.CommandWhileBusyIsDropped := by
  intro s rest a v hq ha hbusy
  have hrun : s.spe.engine ≠ .idle := of_decide_eq_true hbusy
  rw [step_of_inbox hq]
  exact (hostWrite_of_csrAt_cmd ha v _).trans (exec_decodeCmd_busy v hrun)

/-! ### Foreign frames without a cap (R139) -/

/-- Settles O28: `run_foreignFrames`, whose frames leave the command and DONE as they were. -/
theorem foreignFramesStarve : Obligations.ForeignFramesStarve := by
  intro s fs he hcap hfs hq
  obtain ⟨tag, len, type, hdr, buf, hdisc⟩ := foldl_discard_eq fs he
  have hrun := run_foreignFrames he (.inl hcap) hfs (hq.trans (List.append_nil _).symm) 0
  rw [Nat.zero_add, hdisc] at hrun
  exact ⟨_, hrun, rfl, rfl, rfl, rfl⟩

/-! ### The rank of a running command (R141)

Every event that a running command waits for, an answer of the Link or a tick in SLEEP, ends the command or lowers
this rank, and no other event raises it: a tick uses up the poll's time or leaves it used up; an answer takes the
transaction on or uses up a discard; and a poll falls asleep only while it has time left. -/

/-- The ticks until the poll's time is used up (R100). -/
def Spe.timeLeft (p : Spe) : Nat := (p.lMaxTime.toInt + 1 - p.elapsed.toNat).toNat

/-- The foreign frames that the cap still admits (R82). -/
def Spe.discardsLeft (p : Spe) : Nat := p.lCap.toNat - p.discardCnt.toNat

/-- The events left in which the command can be at work without using up time. -/
def Spe.workLeft (p : Spe) : Nat :=
  match p.engine with
  | .idle => 0
  | .rxBody => 2 * p.discardsLeft + 1
  | .rxHdr => 2 * p.discardsLeft + 2
  | .send => 2 * p.discardsLeft + 3
  | .sleep => if p.timeLeft = 0 then 2 * p.lCap.toNat + 3 + p.sleepCnt.toNat else 0

/-- The time left, and then the work left. -/
def Spe.rank (p : Spe) : ℕ ×ₗ ℕ := toLex (p.timeLeft, p.workLeft)

/-- The command has ended or its rank is lower; its cap is latched. -/
def Spe.Advances (p q : Spe) : Prop := q.engine = .idle ∨ (q.lCap = p.lCap ∧ q.rank < p.rank)

/-- STATE, the latched cap and the rank are as they were. -/
def Spe.Stays (p q : Spe) : Prop := q.engine = p.engine ∧ q.lCap = p.lCap ∧ q.rank = p.rank

/-- The events that a running command waits for (R141). -/
def Spe.Awaits (p : Spe) (e : Event) : Prop := (∃ ans, e = .link ans) ∨ (p.engine = .sleep ∧ e = .tick)

theorem Spe.rank_lt_of_timeLeft {p q : Spe} (h : q.timeLeft < p.timeLeft) : q.rank < p.rank :=
  Prod.Lex.toLex_lt_toLex.mpr (.inl h)

theorem Spe.rank_lt_of_workLeft {p q : Spe} (htime : q.timeLeft = p.timeLeft) (h : q.workLeft < p.workLeft) :
    q.rank < p.rank :=
  Prod.Lex.toLex_lt_toLex.mpr (.inr ⟨htime, h⟩)

/-- A command that is not out of time has time left (R100, R103). -/
theorem Spe.timeLeft_ne_zero {p : Spe} (h : p.timedOut = false) : p.timeLeft ≠ 0 := by
  have hle : ¬ (p.elapsed.toNat : Int) > p.lMaxTime.toInt := of_decide_eq_false h
  unfold Spe.timeLeft
  omega

/-- A counted tick uses up time, or none was left (R101). -/
theorem Spe.timeLeft_counted {p q : Spe} (hlimit : q.lMaxTime = p.lMaxTime) (hcount : q.elapsed = satInc p.elapsed) :
    q.timeLeft < p.timeLeft ∨ (q.timeLeft = 0 ∧ p.timeLeft = 0) := by
  have hmax : p.lMaxTime.toInt < 0xFFFFFFFF := lt_trans (BitVec.toInt_lt (x := p.lMaxTime)) (by decide)
  have hge := satInc_ge p.elapsed
  have hinc : p.elapsed.toNat < 0xFFFFFFFF → (satInc p.elapsed).toNat = p.elapsed.toNat + 1 := satInc_of_lt
  simp only [Spe.timeLeft, hlimit, hcount]
  omega

/-- A counted tick lowers the rank if, with no time left, it lowers the work left. -/
theorem Spe.rank_lt_of_counted {p q : Spe} (hlimit : q.lMaxTime = p.lMaxTime) (hcount : q.elapsed = satInc p.elapsed)
    (hwork : p.timeLeft = 0 → q.timeLeft = 0 → q.workLeft < p.workLeft) : q.rank < p.rank := by
  rcases Spe.timeLeft_counted hlimit hcount with hlt | ⟨hq, hp⟩
  · exact Spe.rank_lt_of_timeLeft hlt
  · exact Spe.rank_lt_of_workLeft (hq.trans hp.symm) (hwork hp hq)

/-! ### What each event does to the rank -/

section
variable {p : Spe}

theorem Spe.Stays.refl (p : Spe) : p.Stays p := ⟨rfl, rfl, rfl⟩

/-- A host access closes the transport under a request or leaves the rank as it is (R87). -/
theorem AccessStep.advances_or_stays {q : Spe} (h : AccessStep p q) : p.Advances q ∨ p.Stays q := by
  rcases h with rfl | ⟨c, v, rfl⟩
  · exact .inr (.refl _)
  · cases c with
    | ctrl =>
      rw [writeCsr]
      rcases writeCtrl_cases v p with ⟨-, -, -, e⟩ | ⟨-, e⟩ <;> rw [e]
      · exact .inl (.inl rfl)
      · exact .inr ⟨rfl, rfl, rfl⟩
    | _ => exact .inr ⟨rfl, rfl, rfl⟩

/-- A foreign frame ends the command at its cap and else uses up one of the discards left (R81, R82). -/
theorem foreign_advances (hcap : p.lCap ≠ 0) (he : p.engine = .rxBody) : p.Advances (foreign p) := by
  rcases foreign_cases p with ⟨-, -, e⟩ | ⟨hbelow, e⟩ <;> rw [e]
  · exact .inl rfl
  · have hlt : p.discardCnt.toNat < p.lCap.toNat := hbelow.resolve_left hcap
    have hmax := p.lCap.isLt
    refine .inr ⟨rfl, Spe.rank_lt_of_workLeft rfl ?_⟩
    simp only [Spe.workLeft, Spe.discardsLeft, he, satInc_of_lt (w := p.discardCnt) (by omega)]
    omega

/-- A status snapshot ends the poll or puts it to sleep with time left (R100). -/
theorem judgeStatus_advances (he : p.engine = .rxBody) (w : Word) : p.Advances (judgeStatus w p) := by
  rcases judgeStatus_cases w p with ⟨-, e⟩ | ⟨-, -, e⟩ | ⟨-, -, -, e⟩ | ⟨hin, -, -, e⟩ <;> rw [e]
  case inr.inr.inr =>
    have hsleep : Spe.workLeft { p with engine := .sleep, sleepCnt := pollInterval } = 0 :=
      if_neg (Spe.timeLeft_ne_zero hin)
    refine .inr ⟨rfl, Spe.rank_lt_of_workLeft rfl ?_⟩
    rw [hsleep]
    simp only [Spe.workLeft, he]
    omega
  all_goals exact .inl rfl

theorem finish_advances (he : p.engine = .rxBody) (r : List Byte) : p.Advances (finish r p) := by
  rcases finish_cases r p with ⟨k, -, e⟩ | ⟨-, v, -, e⟩ | ⟨-, e⟩ | ⟨-, e⟩ | ⟨-, w, -, e⟩ <;> rw [e]
  case inr.inr.inr.inr => exact judgeStatus_advances (p := { p with pollCnt := satInc p.pollCnt }) he w
  all_goals exact .inl rfl

theorem bodyReceived_advances (hcap : p.lCap ≠ 0) (he : p.engine = .rxBody) (b : List Byte) :
    p.Advances (bodyReceived b p) := by
  rcases bodyReceived_cases b p with ⟨-, e⟩ | ⟨r, -, ⟨-, e⟩ | ⟨-, e⟩⟩ <;> rw [e]
  · exact .inl rfl
  · exact finish_advances (p := { p with rxbuf := r }) he r
  · exact foreign_advances (p := { p with rxbuf := r }) hcap he

/-- Every answer of the Link takes the command on (R78 to R80). -/
theorem AnswerStep.advances {q : Spe} {ans : LinkAnswer} {bs : List Byte} (h : AnswerStep p ans q bs)
    (hcap : p.lCap ≠ 0) : p.Advances q := by
  cases h with
  | sent he => exact .inr ⟨rfl, Spe.rank_lt_of_workLeft rfl (by simp [Spe.workLeft, Spe.discardsLeft, he])⟩
  | header he =>
    exact .inr ⟨rfl, Spe.rank_lt_of_workLeft rfl
      (by simp [Spe.workLeft, Spe.discardsLeft, headerReceived, he])⟩
  | body he => exact bodyReceived_advances hcap he _
  | timeout | error => exact .inl rfl

/-- A transaction that is started is in SEND with all its discards left, or has ended on a closed transport (R76). -/
theorem startTransaction_workLeft (f : List Byte) (exp : Byte) :
    (startTransaction f exp p).engine = .idle ∨
    ((startTransaction f exp p).lCap = p.lCap ∧ (startTransaction f exp p).lMaxTime = p.lMaxTime ∧
      (startTransaction f exp p).elapsed = p.elapsed ∧
      (startTransaction f exp p).workLeft = 2 * p.lCap.toNat + 3) := by
  cases hl : p.linkEn with
  | true => rw [startTransaction_open hl]; exact .inr ⟨rfl, rfl, rfl, rfl⟩
  | false => rw [startTransaction_closed hl]; exact .inl rfl

/-- With a request pending the work left does not depend on the time (R26). -/
theorem Spe.workLeft_counted (hpend : p.engine.pending = true) :
    Spe.workLeft { p with elapsed := satInc p.elapsed } = p.workLeft := by
  cases he : p.engine with
  | idle | sleep => rw [he] at hpend; cases hpend
  | send | rxHdr | rxBody => simp only [Spe.workLeft, he]; rfl

/-- With no time left, the work of a sleeping poll is what is left of the sleep and one more read (R101). -/
theorem Spe.workLeft_asleep (hs : p.engine = .sleep) (htime : p.timeLeft = 0) :
    p.workLeft = 2 * p.lCap.toNat + 3 + p.sleepCnt.toNat := by
  simp only [Spe.workLeft, hs, htime, if_true]

/-- A tick uses up time of a running poll; in SLEEP with no time left it uses up the sleep (R101). -/
theorem tick_advances_or_stays {cfg : Config} (hinv : p.Inv cfg) (hrun : p.engine ≠ .idle) :
    p.Advances (tick cfg p) ∨ (p.Stays (tick cfg p) ∧ p.engine ≠ .sleep) := by
  rcases tick_cases cfg p with ⟨hoff, e⟩ | ⟨-, hpend, e⟩ | ⟨-, hs, -, e⟩ | ⟨-, hs, -, e⟩ <;> rw [e]
  · exact .inr ⟨.refl p, fun hs => hoff.elim hrun fun hne => hne (hinv.sleepBound hs).1⟩
  · have hwork := Spe.workLeft_counted hpend
    rcases Spe.timeLeft_counted (p := p) (q := { p with elapsed := satInc p.elapsed }) rfl rfl with hlt | ⟨hq, hp⟩
    · exact .inl (.inr ⟨rfl, Spe.rank_lt_of_timeLeft hlt⟩)
    · exact .inr ⟨⟨rfl, rfl, congrArg toLex (Prod.ext (hq.trans hp.symm) hwork)⟩, ne_sleep_of_pending hpend⟩
  · obtain ⟨-, hlo, -⟩ := hinv.sleepBound hs
    have hdec : (p.sleepCnt - 1).toNat < p.sleepCnt.toNat := by bv_omega
    refine .inl (.inr ⟨rfl, Spe.rank_lt_of_counted rfl rfl fun hp hq => ?_⟩)
    rw [Spe.workLeft_asleep hs hp, Spe.workLeft_asleep (by exact hs) hq]
    exact Nat.add_lt_add_left hdec _
  · obtain ⟨-, hlo, -⟩ := hinv.sleepBound hs
    refine .inl ((startTransaction_workLeft _ _).imp_right fun ⟨hcap, hlimit, hcount, hwork⟩ => ⟨hcap, ?_⟩)
    refine Spe.rank_lt_of_counted hlimit hcount fun hp _ => ?_
    rw [Spe.workLeft_asleep hs hp]
    exact hwork.trans_lt (Nat.lt_add_of_pos_right hlo)

end

/-- An event taken while a command runs takes it on, or leaves it as it is and is none that it waits for. -/
theorem takeEvent_advances_or_stays {e : Event} {s t : State} (h : takeEvent e s = .next t) (hinv : s.Inv)
    (hcap : s.spe.lCap ≠ 0) (hrun : s.spe.engine ≠ .idle) :
    s.spe.Advances t.spe ∨ (s.spe.Stays t.spe ∧ ¬ s.spe.Awaits e) := by
  have hstep := takeEvent_eventStep h
  generalize t.spe = q at hstep ⊢
  cases hstep with
  | command hissue op =>
    rw [issue_busy hrun]
    refine .inr ⟨⟨rfl, rfl, rfl⟩, ?_⟩
    rcases hissue with ⟨a, v, rfl, -⟩ | ⟨rfl, -⟩ <;> simp [Spe.Awaits]
  | write _ ha => exact ha.advances_or_stays.imp_right fun hstays => ⟨hstays, by simp [Spe.Awaits]⟩
  | read => exact .inr ⟨.refl _, by simp [Spe.Awaits]⟩
  | line ha => exact ha.advances_or_stays.imp_right fun hstays => ⟨hstays, by simp [Spe.Awaits]⟩
  | link heff => exact .inl ((answerEffect_step heff).advances hcap)
  | tick =>
    exact (tick_advances_or_stays hinv hrun).imp_right fun ⟨hstays, hsleep⟩ =>
      ⟨hstays, by simp [Spe.Awaits, hsleep]⟩
  | reset => exact .inl (.inl rfl)

/-! ### Traces of a command that never ends -/

theorem takeEvent_keeps_inv {e : Event} {s t : State} (h : takeEvent e s = .next t) (hinv : s.Inv) : t.Inv := by
  obtain ⟨hcfg, -, hspe⟩ := takeEvent_stepsTo h
  show t.spe.Inv t.cfg
  rw [hcfg]
  exact hinv.speStep hspe

/-- A command that runs has a request pending or sleeps (R26). -/
theorem pending_or_sleep {g : Engine} (h : g ≠ .idle) : g.pending = true ∨ g = .sleep := by
  cases g with
  | idle => exact absurd rfl h
  | sleep => exact .inr rfl
  | send | rxHdr | rxBody => exact .inl rfl

section
variable {ev : Nat → Event} {st : Nat → State} (htrace : IsTrace ev st) (hrun : ∀ n, (st n).spe.engine ≠ .idle)
include htrace hrun

/-- The invariant and the cap stay while the command runs. -/
theorem IsTrace.inv_and_cap (hinv : (st 0).Inv) (hcap : (st 0).spe.lCap ≠ 0) (n : Nat) :
    (st n).Inv ∧ (st n).spe.lCap ≠ 0 := by
  induction n with
  | zero => exact ⟨hinv, hcap⟩
  | succ n ih =>
    obtain ⟨hinv, hcap⟩ := ih
    refine ⟨takeEvent_keeps_inv (htrace n) hinv, ?_⟩
    rcases takeEvent_advances_or_stays (htrace n) hinv hcap (hrun n) with hadvances | ⟨⟨-, hkept, -⟩, -⟩
    · obtain ⟨hkept, -⟩ := hadvances.resolve_left (hrun (n + 1))
      rwa [hkept]
    · rwa [hkept]

/-- From a state of least rank on, STATE stays as it is and no event comes that the command waits for. -/
theorem IsTrace.stays_from_least_rank (hinv : (st 0).Inv) (hcap : (st 0).spe.lCap ≠ 0) {n : Nat}
    (hleast : ∀ m, ¬ (st m).spe.rank < (st n).spe.rank) {m : Nat} (hm : n ≤ m) :
    (st m).spe.engine = (st n).spe.engine ∧ ¬ (st m).spe.Awaits (ev m) := by
  have next (m : Nat) (hrank : (st m).spe.rank = (st n).spe.rank) :
      (st m).spe.Stays (st (m + 1)).spe ∧ ¬ (st m).spe.Awaits (ev m) := by
    obtain ⟨hinv, hcap⟩ := htrace.inv_and_cap hrun hinv hcap m
    refine (takeEvent_advances_or_stays (htrace m) hinv hcap (hrun m)).resolve_left ?_
    rintro (hidle | ⟨-, hlt⟩)
    · exact hrun (m + 1) hidle
    · exact hleast (m + 1) (hrank ▸ hlt)
  have kept : (st m).spe.engine = (st n).spe.engine ∧ (st m).spe.rank = (st n).spe.rank := by
    induction m, hm using Nat.le_induction with
    | base => exact ⟨rfl, rfl⟩
    | succ m _ ih =>
      obtain ⟨⟨hengine, -, hrank⟩, -⟩ := next m ih.2
      exact ⟨hengine.trans ih.1, hrank.trans ih.2⟩
  exact ⟨kept.1, (next m kept.2).2⟩

end

/-- Settles O37: in a trace of a command that never ends, take a state of least rank. From it on the command waits,
for the Link or for the Clock, and the fair agent answers. -/
theorem fairCommandsEnd : Obligations.FairCommandsEnd := by
  intro ev st htrace hlink hclock hinv hcap _
  by_contra hends
  have hrun (n : Nat) : (st n).spe.engine ≠ .idle := fun hidle => hends ⟨n, hidle⟩
  let n := Function.argmin fun n => (st n).spe.rank
  have hstays {m : Nat} (hm : n ≤ m) := htrace.stays_from_least_rank hrun hinv hcap
    (Function.not_lt_argmin fun n => (st n).spe.rank) hm
  rcases pending_or_sleep (hrun n) with hpend | hsleep
  · obtain ⟨m, hm, ans, hans⟩ := hlink n fun m hm => by rw [(hstays hm).1, hpend]
    exact (hstays hm).2 (.inl ⟨ans, hans⟩)
  · obtain ⟨m, hm, htick⟩ := hclock n
    exact (hstays hm).2 (.inr ⟨(hstays hm).1.trans hsleep, htick⟩)

end Sys2Proof.Machine
